-- ==== Sys2Proof/Word.lean ====
section
/-! DEFINITION. The widths of the block's values (spec 00_scope.md R7): bytes and 32-bit command and data words. -/

namespace Sys2Proof

/-- A byte, `u8` (R7). -/
abbrev Byte := BitVec 8

/-- A 32-bit command or data word, `u32` (R7, R48). -/
abbrev Word := BitVec 32

end Sys2Proof
end

