-- ==== Sys2Proof/Config.lean ====
section
/-! DEFINITION. The parameters of the block that spec 00_scope.md R6 fixes. Its two OPEN parameters need no constant here:
CMD_LATENCY is represented by nothing (R119, log entry 2), FLOAT_RENDER is an argument of
`Sys2Proof.Machine.floatRendered` (R79, log entry 12). The block has no free value: no command leaves a result undefined. -/

namespace Sys2Proof.Config

/-- CRC initial value (R6, R18). -/
abbrev crcInit : BitVec 16 := 0xFFFF#16

/-- CRC reflected polynomial constant (R6, R62). -/
abbrev crcPoly : BitVec 16 := 0xA001#16

/-- Minimum validated buffer length, in bytes (R6, R66). -/
abbrev minBuffer : Nat := 2

/-- Frame RAM size RAM_SIZE, in bytes (R6, R35). -/
abbrev ramSize : Nat := 64

/-- JSY frame length FRAME_LEN, in bytes: the host's size check (R6, R95). -/
abbrev frameLen : Nat := 61

/-- The value at which the byte counter CNT saturates (R6, R19). -/
abbrev cntMax : Nat := 0xFFFF

/-- The largest legal field offset (R52). -/
abbrev maxOff : Nat := 60

end Sys2Proof.Config
end

