-- ==== Sys2Proof/Syntax.lean ====
section
/-! DEFINITION. The commands of the block: one constructor per row of spec/opcode_table.json (30_encoding.md R50), with the
operands of R51. -/

namespace Sys2Proof

/-- A command (R12, R50). Operands are unsigned and neither scaled nor sign-extended (R51). -/
inductive Instr where
  /-- `nop` (42_system.md R85). -/
  | nop
  /-- `crcinit` (40_crc.md R64). -/
  | crcinit
  /-- `push imm8` (40_crc.md R65). -/
  | push (imm8 : Byte)
  /-- `check` (40_crc.md R66). -/
  | check
  /-- `decu32 off` (41_scaler.md R74). -/
  | decu32 (off : BitVec 6)
  /-- `scale off, sc` (41_scaler.md R75). -/
  | scale (off : BitVec 6) (sc : BitVec 2)
  /-- `spow off, soff, sc` (41_scaler.md R76). -/
  | spow (off soff : BitVec 6) (sc : BitVec 2)
  deriving DecidableEq, Repr

end Sys2Proof
end

