-- ==== Sys2Proof/WellFormed.lean ====
section
/-! DEFINITION. Which command terms the encoding admits: the extra legality of 30_encoding.md R50, R52 and R54. -/

namespace Sys2Proof

/-- `off <= 60`, so that the four bytes lie in the frame RAM (R52). -/
def offOk (off : BitVec 6) : Bool := off.toNat ≤ Config.maxOff

/-- `sc != 3`: scale code 3 is reserved (R53, R54). -/
def scOk (sc : BitVec 2) : Bool := sc != 3#2

/-- The command has a legal word (R50, R54). -/
def Instr.wellFormed : Instr → Bool
  | .nop => true
  | .crcinit => true
  | .push _ => true
  | .check => true
  | .decu32 off => offOk off
  | .scale off sc => offOk off && scOk sc
  | .spow off _ sc => offOk off && scOk sc

end Sys2Proof
end

