-- ==== Sys2Proof/Decode.lean ====
section
/-! DEFINITION. Decoding of the 32-bit command word (30_encoding.md R49 to R56) and the encoder written from the same field
table. The word is parallel and has no byte order (20_memory.md R40). -/

namespace Sys2Proof

/-- What a word decodes to: a command, or ILLEGAL (R56). -/
inductive Decoded where
  | command (i : Instr)
  | illegal
  deriving DecidableEq, Repr

/-- The field `w[31:28]` (R49). -/
def opField (w : Word) : BitVec 4 := w.extractLsb' 28 4

/-- The field `w[17:16]` (R49, R51). -/
def scField (w : Word) : BitVec 2 := w.extractLsb' 16 2

/-- The field `w[13:8]` (R49, R51). -/
def soffField (w : Word) : BitVec 6 := w.extractLsb' 8 6

/-- The field `w[7:0]` (R49, R51). -/
def imm8Field (w : Word) : Byte := w.extractLsb' 0 8

/-- The field `w[5:0]` (R49, R51). -/
def offField (w : Word) : BitVec 6 := w.extractLsb' 0 6

/-- The command if its legality check holds, else ILLEGAL. -/
def legalIf (ok : Bool) (i : Instr) : Decoded := if ok then .command i else .illegal

/-- The decode function of R56, total on all words. -/
def decode (w : Word) : Decoded :=
  if opField w = 0x0#4 then legalIf (w == 0x00000000#32) .nop
  else if opField w = 0x1#4 then legalIf (w == 0x10000000#32) .crcinit
  else if opField w = 0x2#4 then legalIf (w.extractLsb' 8 20 == 0#20) (.push (imm8Field w))
  else if opField w = 0x3#4 then legalIf (w == 0x30000000#32) .check
  else if opField w = 0x4#4 then
    legalIf (w.extractLsb' 6 22 == 0#22 && offOk (offField w)) (.decu32 (offField w))
  else if opField w = 0x5#4 then
    legalIf (w.extractLsb' 18 10 == 0#10 && w.extractLsb' 6 10 == 0#10 && scOk (scField w) && offOk (offField w))
      (.scale (offField w) (scField w))
  else if opField w = 0x6#4 then
    legalIf (w.extractLsb' 18 10 == 0#10 && w.extractLsb' 14 2 == 0#2 && w.extractLsb' 6 2 == 0#2 && scOk (scField w)
        && offOk (offField w))
      (.spow (offField w) (soffField w) (scField w))
  else .illegal

/-- The word of a field command: the fields of format C32 side by side, most significant first, as R49 draws them. -/
def fieldWord (op : BitVec 4) (sc : BitVec 2) (soff off : BitVec 6) : Word :=
  op ++ 0#10 ++ sc ++ 0#2 ++ soff ++ 0#2 ++ off

/-- The word of a command (R49, R50, R57). -/
def encode : Instr → Word
  | .nop => 0x0#4 ++ 0#28
  | .crcinit => 0x1#4 ++ 0#28
  | .push imm8 => 0x2#4 ++ 0#20 ++ imm8
  | .check => 0x3#4 ++ 0#28
  | .decu32 off => fieldWord 0x4#4 0#2 0#6 off
  | .scale off sc => fieldWord 0x5#4 sc 0#6 off
  | .spow off soff sc => fieldWord 0x6#4 sc soff off

/-- The command the decoder reads from a table word of `nbits` bits, the bits above `nbits` being 0; no command is longer
than 32 bits (R48). -/
def decodeTableWord (nbits w : Nat) : Option Instr :=
  if w % 2 ^ nbits < 2 ^ 32 then
    match decode (BitVec.ofNat 32 (w % 2 ^ nbits)) with
    | .command i => some i
    | .illegal => none
  else none

end Sys2Proof
end

