-- ==== Sys2Proof/Machine/State.lean ====
section
/-! DEFINITION. The state of the block (10_state.md R17, with the input pins of 42_system.md R88 and the host's moves of
60_exceptions.md R96), what it holds after reset (R31), and the reasons a step can stop. -/

namespace Sys2Proof.Machine

/-- The frame RAM as the bytes it holds (20_memory.md R35): addresses strictly rising, all below 64. An unlisted index
holds no value (R37; log entry 5). -/
abbrev Memory := List Host.Cell

/-- One move of the host on the input pins of the port list (42_system.md R88, 60_exceptions.md R96). -/
inductive HostMove where
  /-- Hold `w` on CMD with CMD_VALID = 1 until the block accepts it (R86). -/
  | command (w : Word)
  /-- Drive RST to this level (R105). -/
  | rst (level : Bool)
  /-- Drive CFG_BYPASS to this level (R107). -/
  | cfgBypass (level : Bool)
  /-- Drive RDSEL (10_state.md R29). -/
  | rdsel (sel : BitVec 3)
  deriving DecidableEq, Repr

/-- The causes of the block's architectural faults (60_exceptions.md R89). Taking one is a next state, not a stop. -/
inductive FaultCode where
  | illegal
  | short
  | unwritten
  deriving DecidableEq, Repr

/-- The whole state. -/
structure State where
  /-- CRC, the running remainder (R18). -/
  crc : BitVec 16
  /-- CNT, the bytes pushed since the last CRCINIT or reset, saturating (R19). -/
  cnt : BitVec 16
  /-- DL0, the older byte of the delay line (R20). -/
  dl0 : Byte
  /-- DL1, the newer byte of the delay line (R20). -/
  dl1 : Byte
  /-- MVALID, a CHECK result is held (R22). -/
  mvalid : Bool
  /-- MATCH, the CHECK result (R22). -/
  matchFlag : Bool
  /-- RAW, the raw value of the last field read (R23). -/
  raw : Word
  /-- OUTN, the signed mantissa of the last scaled value (R24). -/
  outn : BitVec 64
  /-- OUTS, the scale code of OUTN (R25). -/
  outs : BitVec 2
  /-- FAULT, a fault has been taken (R26). -/
  fault : Bool
  /-- FCODE, the fault code (R26, R89). -/
  fcode : BitVec 4
  /-- FCMD, the command word that faulted (R26). -/
  fcmd : Word
  /-- BYPASS, loaded from CFG_BYPASS at reset (R27). -/
  bypass : Bool
  /-- RAM[0..63] (R35). -/
  ram : Memory
  /-- The level of the RST input (R88, R105). -/
  rst : Bool
  /-- The level of the CFG_BYPASS input (R88, R107). -/
  cfgBypass : Bool
  /-- The RDSEL input (R29, R88). -/
  rdsel : BitVec 3
  /-- The moves the host will make, next first: the environment, not the block (R15, R96; log entry 1). -/
  host : List HostMove
  deriving DecidableEq, Repr

/-- The state right after reset with CFG_BYPASS at `cfg` (R31, R105, R107). DL0 and DL1 are unspecified by R31 and take 0
here: DESIGN CHOICE, unsafe (log entry 4); no rule reads them before writing them (R20). RDSEL is 0: DESIGN CHOICE, safe
(log entry 7). -/
def State.resetWith (cfg : Bool) : State where
  crc := Config.crcInit
  cnt := 0#16
  dl0 := 0#8
  dl1 := 0#8
  mvalid := false
  matchFlag := false
  raw := 0#32
  outn := 0#64
  outs := 0#2
  fault := false
  fcode := 0#4
  fcmd := 0#32
  bypass := cfg
  ram := []
  rst := false
  cfgBypass := cfg
  rdsel := 0#3
  host := []

/-- The state right after reset, CFG_BYPASS = 0 (R31): DESIGN CHOICE of the level, unsafe (log entry 6). -/
def State.reset : State := State.resetWith false

/-- The reasons a step can stop with a fault. The block's own faults are not among them: they are taken
(60_exceptions.md R91). -/
inductive Fault where
  /-- Raised by the step when the host's next move presents a command while READY = 0, that is while RST = 1 (R105). R96
  gives the host no such move, and the block accepts nothing: a stuck state, safe (log entry 3). -/
  | portNotReady
  deriving DecidableEq, Repr

/-- The reasons a step can be refused. -/
inductive Refusal where
  /-- Raised by `exec` for a command without a meaning in the model; no arm of this model answers it. Safe. -/
  | notModelled (mnemonic : String)
  deriving DecidableEq, Repr

/-- What a meaning and a step answer. -/
abbrev Result := Host.Outcome State Fault Refusal

end Sys2Proof.Machine
end

