-- ==== Sys2Proof/Machine/Ops.lean ====
section
/-! DEFINITION. The named operations over the frame RAM and the registers: RAM look-up and store, the readable length, the
CRC step, fault entry, reset. There is no return from a fault but reset (60_exceptions.md R94, 70_reset_and_hazards.md
R105). -/

namespace Sys2Proof.Machine

/-- The byte the RAM holds at index `a`, if it holds one. -/
def Memory.get : Memory → Nat → Option Byte
  | [], _ => none
  | (k, v) :: rest, a => if k = a then some v else Memory.get rest a

/-- Put byte `v` at index `a`, keeping the indices strictly rising. -/
def Memory.set : Memory → Nat → Byte → Memory
  | [], a, v => [(a, v)]
  | (k, u) :: rest, a, v =>
    if a < k then (a, v) :: (k, u) :: rest
    else if a = k then (a, v) :: rest
    else (k, u) :: Memory.set rest a v

/-- The canonical form: indices strictly rising and inside the 64-byte RAM (R35). An unlisted index holds no value, so no
entry equals what an unlisted index reads as. -/
def Memory.wf : Memory → Bool
  | [] => true
  | [(k, _)] => k < Config.ramSize
  | (k, _) :: (j, v) :: rest => k < j && Memory.wf ((j, v) :: rest)

/-- The readable length `L = min(CNT, 64)` (R36). -/
def readableLen (s : State) : Nat := min s.cnt.toNat Config.ramSize

/-- `MemRead(a, 1)`: RAM[a], defined only below the readable length (R37). -/
def memRead (s : State) (a : Nat) : Option Byte :=
  if a < readableLen s then s.ram.get a else none

/-- The RAM after PUSH of `b`: `MemWrite(CNT[5:0], 1, b)` while CNT < 64, else unchanged (R36). -/
def ramAfterPush (s : State) (b : Byte) : Memory :=
  if s.cnt.toNat < Config.ramSize then s.ram.set (s.cnt.extractLsb' 0 6).toNat b else s.ram

/-- `min(CNT + 1, 0xFFFF)` (R19, R65). -/
def cntAfterPush (cnt : BitVec 16) : BitVec 16 := BitVec.ofNat 16 (min (cnt.toNat + 1) Config.cntMax)

/-- One of the eight shifts of `crc_step` (R62). -/
def crcShift (c : BitVec 16) : BitVec 16 :=
  if c.getLsbD 0 then (c >>> 1) ^^^ Config.crcPoly else c >>> 1

/-- `n` shifts in a row (R62). -/
def crcShifts : Nat → BitVec 16 → BitVec 16
  | 0, c => c
  | n + 1, c => crcShifts n (crcShift c)

/-- `crc_step(c, b)` (R62). -/
def crcStep (c : BitVec 16) (b : Byte) : BitVec 16 := crcShifts 8 (c ^^^ b.setWidth 16)

/-- `crc_fold(c, bytes)` (R63). -/
def crcFold : BitVec 16 → List Byte → BitVec 16
  | c, [] => c
  | c, b :: rest => crcFold (crcStep c b) rest

/-- CRC after PUSH: the byte two places back leaves the delay line once CNT >= 2 (R65). -/
def crcAfterPush (s : State) : BitVec 16 :=
  if Config.minBuffer ≤ s.cnt.toNat then crcStep s.crc s.dl0 else s.crc

/-- The number FCODE holds for a fault (R89). -/
def FaultCode.code : FaultCode → BitVec 4
  | .illegal => 1#4
  | .short => 2#4
  | .unwritten => 3#4

/-- Fault entry `raise Fault(c)` for the command word `w` (60_exceptions.md R91): nothing else is written. -/
def raiseFault (c : FaultCode) (w : Word) (s : State) : State :=
  { s with fault := true, fcode := c.code, fcmd := w }

/-- RAW := r (R74). -/
def setRaw (r : Word) (s : State) : State := { s with raw := r }

/-- RAW := r, OUTN := n, OUTS := sc (R75, R76). -/
def setScaled (r : Word) (n : BitVec 64) (sc : BitVec 2) (s : State) : State :=
  { s with raw := r, outn := n, outs := sc }

/-- The CRC unit's registers after the start of a new buffer, flags apart (R64). -/
def startBuffer (s : State) : State := { s with crc := Config.crcInit, cnt := 0#16 }

/-- The CRC unit's registers and the RAM after one pushed byte, flags apart; every right-hand side reads the state before
the command (R65, R9). -/
def absorb (b : Byte) (s : State) : State :=
  { s with
    crc := crcAfterPush s
    dl0 := s.dl1
    dl1 := b
    ram := ramAfterPush s b
    cnt := cntAfterPush s.cnt }

/-- The host's remaining moves. -/
def setHost (moves : List HostMove) (s : State) : State := { s with host := moves }

/-- The level of the RST input (R105). -/
def setRst (level : Bool) (s : State) : State := { s with rst := level }

/-- The level of the CFG_BYPASS input (R107). -/
def setCfgBypass (level : Bool) (s : State) : State := { s with cfgBypass := level }

/-- The RDSEL input (R29). -/
def setRdsel (sel : BitVec 3) (s : State) : State := { s with rdsel := sel }

/-- The reset event, at the fall of RST (70_reset_and_hazards.md R105, R107): every piece of state takes its reset value
and BYPASS is loaded from CFG_BYPASS; the input pins and the host's moves are not the block's to change. -/
def resetEvent (s : State) : State :=
  { State.resetWith s.cfgBypass with rdsel := s.rdsel, host := s.host }

end Sys2Proof.Machine
end

