-- ==== Sys2Proof/Machine/Operands.lean ====
section
/-! DEFINITION. The operands of the scaler commands: the readable checks, the big-endian field, the signed mantissa, and the
meaning of the result registers (41_scaler.md R72, R73, R77, R79; 20_memory.md R38). -/

namespace Sys2Proof.Machine

/-- `field_ok(off) = (off + 4 <= L)` (R72). -/
def fieldOk (s : State) (off : BitVec 6) : Bool := off.toNat + 4 ≤ readableLen s

/-- `sign_ok(soff) = (soff + 1 <= L)` (R72). -/
def signOk (s : State) (soff : BitVec 6) : Bool := soff.toNat + 1 ≤ readableLen s

/-- The four bytes of a field put together, first byte most significant (R38). -/
def assembleBe (b0 b1 b2 b3 : Byte) : Word :=
  (b0.setWidth 32 <<< 24) ||| (b1.setWidth 32 <<< 16) ||| (b2.setWidth 32 <<< 8) ||| b3.setWidth 32

/-- `u32be(a)` (R38), where `MemRead(a, 4)` is defined (R37). -/
def u32be (s : State) (a : Nat) : Option Word :=
  match memRead s a, memRead s (a + 1), memRead s (a + 2), memRead s (a + 3) with
  | some b0, some b1, some b2, some b3 => some (assembleBe b0 b1 b2 b3)
  | _, _, _, _ => none

/-- The raw value of the field at `off`, if it may be read: the check of R72 comes first. A byte below L that the RAM does
not hold (no run reaches such a state) gives no value either: DESIGN CHOICE, safe (log entry 5). -/
def readField (s : State) (off : BitVec 6) : Option Word :=
  if fieldOk s off then u32be s off.toNat else none

/-- The sign byte at `soff`, if it may be read (R72, R76). -/
def readSign (s : State) (soff : BitVec 6) : Option Byte :=
  if signOk s soff then memRead s soff.toNat else none

/-- `negate(r, f) = (f == 0x01) AND (r != 0)` (R73). -/
def negates (r : Word) (f : Byte) : Bool := f == 0x01#8 && r != 0#32

/-- The mantissa SCALE writes: `zext_64(r)` (R75). -/
def magnitude (r : Word) : BitVec 64 := r.setWidth 64

/-- The mantissa SPOW writes (R76). -/
def signedMantissa (r : Word) (f : Byte) : BitVec 64 :=
  if negates r f then -(magnitude r) else magnitude r

/-- The decimal exponent `k = 4 - sc` of a scale code: the factor is 10^-k (R53). -/
def scaleExponent (sc : BitVec 2) : Nat := 4 - sc.toNat

/-- `value(OUTN, OUTS) = OUTN / 10^(4 - OUTS)`, an exact rational, OUTN read as a signed integer (R77). -/
def scaledValue (s : State) : Rat := (s.outn.toInt : Rat) / 10 ^ scaleExponent s.outs

/-- The consumer's float of the result registers: FLOAT_RENDER is an argument, outside the block (R6, R79; log entry 12). -/
def floatRendered {F : Type} (floatRender : BitVec 64 → BitVec 2 → F) (s : State) : F := floatRender s.outn s.outs

end Sys2Proof.Machine
end

