-- ==== Sys2Proof/Machine/Flags.lean ====
section
/-! DEFINITION. The flags MVALID and MATCH (10_state.md R22), and everything the host sees of the block: STATUS (R28), the
read port (R29), READY and the FAULT output (42_system.md R88). -/

namespace Sys2Proof.Machine

/-- CRCINIT and PUSH: MVALID := 0, MATCH := 0 (R22). -/
def clearResult (s : State) : State := { s with mvalid := false, matchFlag := false }

/-- CHECK: MVALID := 1, MATCH := m (R22). -/
def setResult (m : Bool) (s : State) : State := { s with mvalid := true, matchFlag := m }

/-- The trailer in the delay line, low byte first in the buffer: `{DL1, DL0}` (20_memory.md R39, R66). -/
def trailer (s : State) : BitVec 16 := s.dl1 ++ s.dl0

/-- The comparison of CHECK: `CRC == {DL1, DL0}` (R66). -/
def trailerMatches (s : State) : Bool := s.crc == trailer s

/-- `FILL = min(CNT, 2)` (R21). -/
def fill (s : State) : BitVec 2 := BitVec.ofNat 2 (min s.cnt.toNat 2)

/-- STATUS, assembled at the time of the read, bits [31:12] zero (R28). -/
def status (s : State) : Word :=
  0#20 ++ s.outs ++ fill s ++ s.fcode ++ BitVec.ofBool s.fault ++ BitVec.ofBool s.bypass ++ BitVec.ofBool s.matchFlag
    ++ BitVec.ofBool s.mvalid

/-- RDATA for a select: a combinational function of RDSEL and the state (R29). -/
def readPort (sel : BitVec 3) (s : State) : Word :=
  if sel = 0#3 then status s
  else if sel = 1#3 then s.crc.setWidth 32
  else if sel = 2#3 then s.cnt.setWidth 32
  else if sel = 3#3 then s.raw
  else if sel = 4#3 then s.outn.extractLsb' 0 32
  else if sel = 5#3 then s.outn.extractLsb' 32 32
  else if sel = 6#3 then s.fcmd
  else 0#32

/-- The RDATA output (R29, R88). -/
def rdata (s : State) : Word := readPort s.rdsel s

/-- The FAULT output equals the FAULT register (60_exceptions.md R103). -/
def faultOut (s : State) : Bool := s.fault

/-- The READY output between steps: 0 while RST = 1, else 1 (R86, R102, R105). -/
def ready (s : State) : Bool := !s.rst

/-- CMD_VALID: the host presents a command, and holds it until it is accepted (R86; log entry 2). -/
def cmdValid (s : State) : Bool :=
  match s.host with
  | .command _ :: _ => true
  | _ => false

/-- The word on CMD while CMD_VALID = 1 (R86). -/
def cmd (s : State) : Option Word :=
  match s.host with
  | .command w :: _ => some w
  | _ => none

end Sys2Proof.Machine
end

