-- ==== Sys2Proof/Machine/Crc.lean ====
section
/-! DEFINITION. The CRC unit commands CRCINIT, PUSH and CHECK (40_crc.md R64 to R66). -/

namespace Sys2Proof.Machine

/-- CRCINIT: start a new buffer (R64). -/
def execCrcinit (s : State) : Result := .next (clearResult (startBuffer s))

/-- PUSH imm8: feed one byte of the buffer (R65). -/
def execPush (imm8 : Byte) (s : State) : Result := .next (clearResult (absorb imm8 s))

/-- CHECK: compare the running CRC with the trailer (R66). FCMD takes CHECK's one word (R58; log entry 9). -/
def execCheck (s : State) : Result :=
  if s.bypass then .next (setResult true s)
  else if s.cnt.toNat < Config.minBuffer then .next (raiseFault .short (encode .check) s)
  else .next (setResult (trailerMatches s) s)

end Sys2Proof.Machine
end

