-- ==== Sys2Proof/Machine/Scaler.lean ====
section
/-! DEFINITION. The scaler commands DECU32, SCALE and SPOW (41_scaler.md R74 to R76). Each faults with UNWRITTEN before it
writes anything when an operand byte may not be read (R72); FCMD takes the command's one word (R58; log entry 9). -/

namespace Sys2Proof.Machine

/-- DECU32 off: read a raw 4-byte field (R74). -/
def execDecu32 (off : BitVec 6) (s : State) : Result :=
  match readField s off with
  | some r => .next (setRaw r s)
  | none => .next (raiseFault .unwritten (encode (.decu32 off)) s)

/-- SCALE off, sc: read a field and attach a scale factor (R75). -/
def execScale (off : BitVec 6) (sc : BitVec 2) (s : State) : Result :=
  match readField s off with
  | some r => .next (setScaled r (magnitude r) sc s)
  | none => .next (raiseFault .unwritten (encode (.scale off sc)) s)

/-- SPOW off, soff, sc: read a power field and apply its power-direction flag (R76). -/
def execSpow (off soff : BitVec 6) (sc : BitVec 2) (s : State) : Result :=
  match readField s off, readSign s soff with
  | some r, some f => .next (setScaled r (signedMantissa r f) sc s)
  | _, _ => .next (raiseFault .unwritten (encode (.spow off soff sc)) s)

end Sys2Proof.Machine
end

