-- ==== Sys2Proof/Machine/System.lean ====
section
/-! DEFINITION. The system command NOP (42_system.md R85). -/

namespace Sys2Proof.Machine

/-- NOP: nothing changes (R85). -/
def execNop (s : State) : Result := .next s

end Sys2Proof.Machine
end

