-- ==== Sys2Proof/Machine/Dispatch.lean ====
section
/-! DEFINITION. The meaning of every command, one arm each (30_encoding.md R50). -/

namespace Sys2Proof.Machine

def exec (i : Instr) (s : State) : Host.Outcome State Fault Refusal :=
  match i with
  | .nop => Sys2Proof.Machine.execNop s
  | .crcinit => Sys2Proof.Machine.execCrcinit s
  | .push imm8 => Sys2Proof.Machine.execPush imm8 s
  | .check => Sys2Proof.Machine.execCheck s
  | .decu32 off => Sys2Proof.Machine.execDecu32 off s
  | .scale off sc => Sys2Proof.Machine.execScale off sc s
  | .spow off soff sc => Sys2Proof.Machine.execSpow off soff sc s

end Sys2Proof.Machine
end

