-- ==== Sys2Proof/Machine/Port.lean ====
section
/-! DEFINITION. The command port and the other input pins: what the block does on an accepted word (42_system.md R87) and on
each move of the host (R86, R88; 70_reset_and_hazards.md R105, R107; 10_state.md R30). -/

namespace Sys2Proof.Machine

/-- The step of the block on an accepted word `w` (R87): a faulted block accepts and ignores it; decoding comes first; then
the command's own rule (log entry 10). -/
def accept (w : Word) (s : State) : Result :=
  if s.fault then .next s
  else
    match decode w with
    | .illegal => .next (raiseFault .illegal w s)
    | .command i => exec i s

/-- RST driven to a level: at its fall the reset event, otherwise only the pin changes (R105; DESIGN CHOICE, log entry 8). -/
def driveRst (level : Bool) (s : State) : State :=
  match s.rst, level with
  | true, false => resetEvent s
  | _, _ => setRst level s

/-- One move of the host, the block answering it (R86, R105, R107, R30). A command needs READY = 1 (log entry 3). -/
def hostMove (m : HostMove) (s : State) : Result :=
  match m with
  | .command w => if ready s then accept w s else .fault .portNotReady
  | .rst level => .next (driveRst level s)
  | .cfgBypass level => .next (setCfgBypass level s)
  | .rdsel sel => .next (setRdsel sel s)

/-- The host makes its next move; with none left the block holds its state (60_exceptions.md R102). -/
def portStep (s : State) : Result :=
  match s.host with
  | [] => .next s
  | m :: rest => hostMove m (setHost rest s)

/-- The host presents the word `w` next, and RST is low so that the block is ready for it (R86). -/
def presentWord (w : Word) (s : State) : State := { s with host := .command w :: s.host, rst := false }

end Sys2Proof.Machine
end

