-- ==== Sys2Proof/Machine/Step.lean ====
section
/-! DEFINITION. One step of the machine: one move of the host, an accepted command being one atomic step (42_system.md R86,
R87). -/

namespace Sys2Proof.Machine

/-- One step (R86, R87, R96). -/
def step (s : State) : Host.Outcome State Fault Refusal := portStep s

/-- `s` with the command of a table word as the host's next move (log entry 1). -/
def State.withFetchWord (s : State) (nbits w : Nat) : State := presentWord (BitVec.ofNat 32 (w % 2 ^ nbits)) s

end Sys2Proof.Machine
end

