-- ==== Sys2Proof/Machine/Assembler.lean ====
section
/-! DEFINITION. The assembler: structured lines and their words, the field pseudo-instructions and the two sequence
pseudo-instructions (30_encoding.md R57 to R60), and the reading of a line's characters. -/

namespace Sys2Proof.Machine

/-- The thirteen field pseudo-instructions (R59). -/
inductive FieldName where
  | v1 | i1 | p1 | ep1 | pf1 | en1 | freq | v2 | i2 | p2 | ep2 | pf2 | en2
  deriving DecidableEq, Repr

/-- The one command a field pseudo-instruction expands to (R59); channel-2 power takes sign byte 28 by the spec's decision
D11 (41_scaler.md R83; log entry 15). -/
def expandField : FieldName → Instr
  | .v1 => .scale 3#6 0#2
  | .i1 => .scale 7#6 0#2
  | .p1 => .spow 11#6 27#6 0#2
  | .ep1 => .scale 15#6 0#2
  | .pf1 => .scale 19#6 1#2
  | .en1 => .scale 23#6 0#2
  | .freq => .scale 31#6 2#2
  | .v2 => .scale 35#6 0#2
  | .i2 => .scale 39#6 0#2
  | .p2 => .spow 43#6 28#6 0#2
  | .ep2 => .scale 47#6 0#2
  | .pf2 => .scale 51#6 1#2
  | .en2 => .scale 55#6 0#2

/-- `pushbytes b0 ... bn-1` (R60). -/
def expandPushbytes (bytes : List Byte) : List Instr := bytes.map .push

/-- `vframe b0 ... bn-1` (R60). -/
def expandVframe (bytes : List Byte) : List Instr := .crcinit :: (expandPushbytes bytes ++ [.check])

/-- A source line after its operands are read (R57, R59, R60); a number may still be out of range. -/
inductive AsmLine where
  | nop
  | crcinit
  | push (imm8 : Nat)
  | check
  | decu32 (off : Nat)
  | scale (off : Nat) (sc : BitVec 2)
  | spow (off soff : Nat) (sc : BitVec 2)
  | word (w : Nat)
  | field (name : FieldName)
  | pushbytes (bytes : List Byte)
  | vframe (bytes : List Byte)
  deriving DecidableEq, Repr

/-- One command, refused when its operands are out of range (R57). -/
def asmCommand (inRange : Bool) (i : Instr) : Option (List Word) :=
  if inRange && i.wellFormed then some [encode i] else none

/-- The words of a line; none when the assembler refuses it (R57). -/
def assembleLine : AsmLine → Option (List Word)
  | .nop => asmCommand true .nop
  | .crcinit => asmCommand true .crcinit
  | .push n => asmCommand (n < 256) (.push (BitVec.ofNat 8 n))
  | .check => asmCommand true .check
  | .decu32 n => asmCommand (n < 64) (.decu32 (BitVec.ofNat 6 n))
  | .scale n sc => asmCommand (n < 64) (.scale (BitVec.ofNat 6 n) sc)
  | .spow n m sc => asmCommand (n < 64 && m < 64) (.spow (BitVec.ofNat 6 n) (BitVec.ofNat 6 m) sc)
  | .word w => if w < 2 ^ 32 then some [BitVec.ofNat 32 w] else none
  | .field name => some [encode (expandField name)]
  | .pushbytes bytes => some ((expandPushbytes bytes).map encode)
  | .vframe bytes => some ((expandVframe bytes).map encode)

/-- The line that spells a command (R57, R58). -/
def spelling : Instr → AsmLine
  | .nop => .nop
  | .crcinit => .crcinit
  | .push b => .push b.toNat
  | .check => .check
  | .decu32 off => .decu32 off.toNat
  | .scale off sc => .scale off.toNat sc
  | .spow off soff sc => .spow off.toNat soff.toNat sc

/-- The value of a digit, letters standing for ten to fifteen. -/
def digitValue (c : Char) : Option Nat :=
  if '0'.toNat ≤ c.toNat && c.toNat ≤ '9'.toNat then some (c.toNat - '0'.toNat)
  else if 'a'.toNat ≤ c.toNat && c.toNat ≤ 'f'.toNat then some (c.toNat - 'a'.toNat + 10)
  else if 'A'.toNat ≤ c.toNat && c.toNat ≤ 'F'.toNat then some (c.toNat - 'A'.toNat + 10)
  else none

/-- The number the digits give in a base, after `acc`. -/
def readDigits (base : Nat) : Nat → List Char → Option Nat
  | acc, [] => some acc
  | acc, c :: rest =>
    match digitValue c with
    | some d => if d < base then readDigits base (acc * base + d) rest else none
    | none => none

/-- A number: decimal, or hexadecimal with a `0x` prefix (R57). -/
def readNumber : List Char → Option Nat
  | [] => none
  | '0' :: 'x' :: d :: rest => readDigits 16 0 (d :: rest)
  | d :: rest => readDigits 10 0 (d :: rest)

/-- A two-digit hexadecimal byte without the prefix (R60). -/
def readByte : List Char → Option Byte
  | [h, l] => (readDigits 16 0 [h, l]).map (BitVec.ofNat 8)
  | _ => none

/-- The bytes of a sequence pseudo-instruction (R60). -/
def readBytes : List (List Char) → Option (List Byte)
  | [] => some []
  | t :: rest =>
    match readByte t, readBytes rest with
    | some b, some bs => some (b :: bs)
    | _, _ => none

/-- A scale token (R53). -/
def readScale (t : List Char) : Option (BitVec 2) :=
  if t = ['e', '-', '4'] then some 0#2
  else if t = ['e', '-', '3'] then some 1#2
  else if t = ['e', '-', '2'] then some 2#2
  else none

/-- The field pseudo-instruction of a token (R59). -/
def readFieldName (t : List Char) : Option FieldName :=
  if t = ['v', '1'] then some .v1
  else if t = ['i', '1'] then some .i1
  else if t = ['p', '1'] then some .p1
  else if t = ['e', 'p', '1'] then some .ep1
  else if t = ['p', 'f', '1'] then some .pf1
  else if t = ['e', 'n', '1'] then some .en1
  else if t = ['f', 'r', 'e', 'q'] then some .freq
  else if t = ['v', '2'] then some .v2
  else if t = ['i', '2'] then some .i2
  else if t = ['p', '2'] then some .p2
  else if t = ['e', 'p', '2'] then some .ep2
  else if t = ['p', 'f', '2'] then some .pf2
  else if t = ['e', 'n', '2'] then some .en2
  else none

/-- The characters before a `;`: the rest of the line is a comment (R57). -/
def dropComment : List Char → List Char
  | [] => []
  | c :: rest => if c = ';' then [] else c :: dropComment rest

/-- The tokens of a line: blanks part tokens and a comma is a token of its own (log entry 14). -/
def tokens : List Char → List Char → List (List Char)
  | [], [] => []
  | w, [] => [w]
  | w, c :: rest =>
    if c = ' ' || c = '\t' then (if w = [] then tokens [] rest else w :: tokens [] rest)
    else if c = ',' then (if w = [] then [','] :: tokens [] rest else w :: [','] :: tokens [] rest)
    else tokens (w ++ [c]) rest

/-- The line of a list of tokens; none when it is no line of R57, R59 or R60. -/
def readTokens : List (List Char) → Option AsmLine
  | [] => none
  | op :: args =>
    if op = ['n', 'o', 'p'] then (if args = [] then some .nop else none)
    else if op = ['c', 'r', 'c', 'i', 'n', 'i', 't'] then (if args = [] then some .crcinit else none)
    else if op = ['c', 'h', 'e', 'c', 'k'] then (if args = [] then some .check else none)
    else if op = ['p', 'u', 's', 'h'] then
      match args with
      | [n] => (readNumber n).map .push
      | _ => none
    else if op = ['d', 'e', 'c', 'u', '3', '2'] then
      match args with
      | [n] => (readNumber n).map .decu32
      | _ => none
    else if op = ['s', 'c', 'a', 'l', 'e'] then
      match args with
      | [n, [','], sc] =>
        match readNumber n, readScale sc with
        | some off, some k => some (.scale off k)
        | _, _ => none
      | _ => none
    else if op = ['s', 'p', 'o', 'w'] then
      match args with
      | [n, [','], m, [','], sc] =>
        match readNumber n, readNumber m, readScale sc with
        | some off, some soff, some k => some (.spow off soff k)
        | _, _, _ => none
      | _ => none
    else if op = ['.', 'w', 'o', 'r', 'd'] then
      match args with
      | [n] => (readNumber n).map .word
      | _ => none
    else if op = ['p', 'u', 's', 'h', 'b', 'y', 't', 'e', 's'] then (readBytes args).map .pushbytes
    else if op = ['v', 'f', 'r', 'a', 'm', 'e'] then (readBytes args).map .vframe
    else
      match readFieldName op, args with
      | some name, [] => some (.field name)
      | _, _ => none

/-- The words of a line of text; a line with nothing but a comment gives none of them (R57; log entry 14). -/
def assembleText (line : List Char) : Option (List Word) :=
  match tokens [] (dropComment line) with
  | [] => some []
  | ts =>
    match readTokens ts with
    | some l => assembleLine l
    | none => none

end Sys2Proof.Machine
end

