-- ==== Sys2Proof/Safety.lean ====
section
/-! DEFINITION. The terms claims are made in: the invariants of the block, which state cannot be observed, the source's
functions as the spec quotes them, and the host's duties of 60_exceptions.md R95 and R96. -/

namespace Sys2Proof.Machine

/-- The RAM is in canonical form, inside its 64 indices (R35). -/
abbrev RamCanonical (s : State) : Prop := s.ram.wf = true

/-- Every index below the readable length holds a byte (R36). -/
abbrev RamFilled (s : State) : Prop := ∀ a, a < readableLen s → s.ram.get a ≠ none

/-- Before the delay line is full no byte has entered the CRC (R18, R65). -/
abbrev CrcIdle (s : State) : Prop := s.cnt.toNat < Config.minBuffer → s.crc = Config.crcInit

/-- With MVALID = 0, MATCH is 0; with MVALID = 1, MATCH is the comparison CHECK would make now, or 1 under bypass (R22,
R66). -/
abbrev FlagsSound (s : State) : Prop :=
  (s.mvalid = false → s.matchFlag = false) ∧
  (s.mvalid = true → s.bypass = true → s.matchFlag = true) ∧
  (s.mvalid = true → s.bypass = false → Config.minBuffer ≤ s.cnt.toNat ∧ s.matchFlag = trailerMatches s)

/-- OUTS is never the reserved code (R25). -/
abbrev ScaleLegal (s : State) : Prop := s.outs ≠ 3#2

/-- OUTN lies in plus or minus (2^32 - 1) (R24, R81). -/
abbrev MantissaInRange (s : State) : Prop := -(2 ^ 32 - 1) ≤ s.outn.toInt ∧ s.outn.toInt ≤ 2 ^ 32 - 1

/-- FCODE is 0 exactly without a fault, never above 3, and FCMD is 0 without a fault (R26, R89). -/
abbrev FaultRecordSound (s : State) : Prop :=
  (s.fault = false → s.fcode = 0#4 ∧ s.fcmd = 0#32) ∧
  (s.fault = true → s.fcode = 1#4 ∨ s.fcode = 2#4 ∨ s.fcode = 3#4)

/-- The invariant of the block. -/
abbrev Inv (s : State) : Prop :=
  RamCanonical s ∧ RamFilled s ∧ CrcIdle s ∧ FlagsSound s ∧ ScaleLegal s ∧ MantissaInRange s ∧ FaultRecordSound s

/-- Two states the host cannot tell apart by any later command: they differ at most in stale delay-line bytes (R20) and in
RAM bytes at or above the readable length (R37). -/
abbrev SameButStale (s t : State) : Prop :=
  t = { s with dl0 := t.dl0, dl1 := t.dl1, ram := t.ram } ∧
  (1 ≤ s.cnt.toNat → t.dl1 = s.dl1) ∧
  (Config.minBuffer ≤ s.cnt.toNat → t.dl0 = s.dl0) ∧
  (∀ a, a < readableLen s → t.ram.get a = s.ram.get a)

/-- The RAM and CNT hold the bytes pushed, in push order: RAM[i] is byte i for the first 64 bytes, and CNT counts them
(R36, R67). -/
abbrev Holds (s : State) (frame : List Byte) : Prop :=
  s.cnt.toNat = min frame.length Config.cntMax ∧
  ∀ i, i < min frame.length Config.ramSize → s.ram.get i = frame[i]?

/-- The CRC unit and the RAM are in the state of R67 after these bytes of the current buffer: all but the last two are folded
into CRC, the last two stand in the delay line, CNT counts them and the RAM holds the first 64. -/
abbrev HoldsBuffer (s : State) (bytes : List Byte) : Prop :=
  Holds s bytes ∧ s.crc = crcFold Config.crcInit (bytes.take (bytes.length - Config.minBuffer)) ∧
  (Config.minBuffer ≤ bytes.length → bytes[bytes.length - 2]? = some s.dl0) ∧
  (1 ≤ bytes.length → bytes[bytes.length - 1]? = some s.dl1)

/-- The bytes of the current buffer after an accepted word: PUSH adds one, CRCINIT starts anew, a faulted block ignores the
word (R64, R65, R87). -/
def bufferAfterWord (fault : Bool) (w : Word) (bytes : List Byte) : List Byte :=
  if fault then bytes
  else
    match decode w with
    | .command (.push b) => bytes ++ [b]
    | .command .crcinit => []
    | _ => bytes

/-- The bytes of the current buffer after the host's next move: the fall of RST starts anew (R105, R108). -/
def bufferAfter (s : State) (bytes : List Byte) : List Byte :=
  match s.host with
  | .command w :: _ => bufferAfterWord s.fault w bytes
  | .rst false :: _ => if s.rst then [] else bytes
  | _ => bytes

/-- The command unit is at rest and the host presents these words next, then makes the moves `rest`. -/
abbrev Presents (s : State) (words : List Word) (rest : List HostMove) : Prop :=
  s.rst = false ∧ s.fault = false ∧ s.host = words.map .command ++ rest

/-- `n` steps, stopping at the first fault or refusal. -/
def runSteps : Nat → State → Result
  | 0, s => .next s
  | n + 1, s =>
    match step s with
    | .next t => runSteps n t
    | .fault r => .fault r
    | .refused r => .refused r

/-! The source's functions, on numbers, as 40_crc.md R61 and 41_scaler.md R71 quote them. -/

/-- "if the low bit of `crc` is set, shift `crc` right one bit and XOR with `0xA001`, else just shift right" (R61). -/
def sourceCrcBit (c : Nat) : Nat := if c % 2 = 1 then (c / 2) ^^^ 0xA001 else c / 2

/-- The shift `n` times. -/
def sourceCrcBits : Nat → Nat → Nat
  | 0, c => c
  | n + 1, c => sourceCrcBits n (sourceCrcBit c)

/-- "XOR the byte into the low byte of `crc`; then, 8 times, ..." (R61). -/
def sourceCrcByte (c b : Nat) : Nat := sourceCrcBits 8 (c ^^^ b)

/-- The running `crc` over a list of bytes (R61). -/
def sourceCrc : Nat → List Byte → Nat
  | c, [] => c
  | c, b :: rest => sourceCrc (sourceCrcByte c b.toNat) rest

/-- The value of byte `i` of a buffer; past its end, 0, which no use below reads. -/
def byteAt (buffer : List Byte) (i : Nat) : Nat := (buffer.getD i 0#8).toNat

/-- `compute_or_check(buffer)` on a buffer of at least 2 bytes: the CRC of all but the last two bytes is
`byte[len-1]*256 + byte[len-2]` (R61). -/
def computeOrCheck (buffer : List Byte) : Bool :=
  sourceCrc 0xFFFF (buffer.take (buffer.length - 2)) ==
    byteAt buffer (buffer.length - 1) * 256 + byteAt buffer (buffer.length - 2)

/-- `decode_u32(frame, offset)`, shifts before additions (R71; 00_scope.md R8; 90_conflicts.md C2). -/
def decodeU32 (frame : List Byte) (offset : Nat) : Nat :=
  byteAt frame (offset + 3) + byteAt frame (offset + 2) * 2 ^ 8 + byteAt frame (offset + 1) * 2 ^ 16
    + byteAt frame offset * 2 ^ 24

/-- `decode_scaled(frame, offset, scale)`, computed exactly (R71, R77). -/
def decodeScaled (frame : List Byte) (offset : Nat) (scale : Rat) : Rat := (decodeU32 frame offset : Rat) * scale

/-- `decode_signed_power(frame, power_offset, sign_offset, scale)`, computed exactly (R71). -/
def decodeSignedPower (frame : List Byte) (powerOffset signOffset : Nat) (scale : Rat) : Rat :=
  let p := decodeScaled frame powerOffset scale
  if byteAt frame signOffset = 1 ∧ p > 0 then -p else p

/-- The scale factor of a scale code (R53): 0.0001, 0.001, 0.01; the reserved code 3 has none and reads 0 here, which no
use below reads. -/
def scaleFactor (sc : BitVec 2) : Rat :=
  if sc = 0#2 then 1 / 10000 else if sc = 1#2 then 1 / 1000 else if sc = 2#2 then 1 / 100 else 0

/-! The host's duties. -/

/-- The outcomes of the host's checks that have a block counterpart (R95). -/
inductive Verdict where
  | readSizeMismatch (expected actual : Nat)
  | badChecksum
  | good
  deriving DecidableEq, Repr

/-- The host's verdict after it pushed a received frame and issued CHECK: the size check first (R95, R110). -/
def verdict (s : State) : Verdict :=
  if s.cnt.toNat ≠ Config.frameLen then .readSizeMismatch Config.frameLen s.cnt.toNat
  else if s.matchFlag then .good
  else .badChecksum

/-- The field commands the host issues on a good verdict, in the order of R110. -/
def decodeSequence : List FieldName :=
  [.v1, .i1, .p1, .ep1, .pf1, .en1, .freq, .v2, .i2, .p2, .ep2, .pf2, .en2]

/-- What a session does with the block (R96): configure it by a reset, which is also the recovery from a fault, or read one
frame whose bytes the transport returned. -/
inductive SessionAct where
  | configure (bypass : Bool)
  | frame (bytes : List Byte)
  deriving DecidableEq, Repr

/-- The commands of one frame read (R110): the host stops after the pushes when CNT is not 61, and after CHECK when MATCH
is 0; only then does it decode. -/
def frameCommands (bypass : Bool) (bytes : List Byte) : List Instr :=
  .crcinit :: (expandPushbytes bytes ++
    if bytes.length = Config.frameLen then
      .check :: if bypass || computeOrCheck bytes then decodeSequence.map expandField else []
    else [])

/-- The moves of a session that keeps its duties (R96, R109, R110), reads apart, given the level of BYPASS before them. -/
def sessionMoves : Bool → List SessionAct → List HostMove
  | _, [] => []
  | _, .configure level :: rest => .rst true :: .cfgBypass level :: .rst false :: sessionMoves level rest
  | bypass, .frame bytes :: rest =>
    (frameCommands bypass bytes).map (fun i => .command (encode i)) ++ sessionMoves bypass rest

/-- The move selects a register to read (10_state.md R29). -/
def isRead : HostMove → Bool
  | .rdsel _ => true
  | _ => false

/-- RST is low and no fault is taken, and the host makes `moves` next, with any reads of registers among them, then `rest`. -/
abbrev PresentsWithReads (s : State) (moves made rest : List HostMove) : Prop :=
  s.rst = false ∧ s.fault = false ∧ made.filter (fun m => !isRead m) = moves ∧ s.host = made ++ rest

/-- The host presents a command only while READY = 1: the moves keep R96, given the level of RST before them. -/
def keepsProtocol : Bool → List HostMove → Bool
  | _, [] => true
  | rst, .command _ :: rest => !rst && keepsProtocol rst rest
  | _, .rst level :: rest => keepsProtocol level rest
  | rst, .cfgBypass _ :: rest => keepsProtocol rst rest
  | rst, .rdsel _ :: rest => keepsProtocol rst rest

end Sys2Proof.Machine
end

