-- ==== Sys2Proof/Certificates/Slice0/Obligations.lean ====
section
/-! DEFINITION. The statements for the provers, each taken from the rules of spec/ that its docstring cites. -/

open Sys2Proof Sys2Proof.Machine

/-! ## Decoding and encoding -/

/-- When the host presents a word that decodes to a command and the block is ready and not faulted, the step is that
command's own rule on the state with the host's move taken (42_system.md R86, R87; 00_scope.md R10). -/
def Obligations.StepRunsTheDecodedCommand : Prop :=
  ∀ (s : State) (w : Word) (rest : List HostMove) (i : Instr),
    s.host = .command w :: rest → s.rst = false → s.fault = false → decode w = .command i →
    step s = exec i (setHost rest s)

/-- Words written out bit by bit from the encoding (30_encoding.md R49, R58, R59; 95_test_vectors.md V-DEC-1, V-DEC-2). -/
def Obligations.SampleWordsDecode : Prop :=
  decode 0b00000000000000000000000000000000#32 = .command .nop ∧
  decode 0b00010000000000000000000000000000#32 = .command .crcinit ∧
  decode 0b00100000000000000000000011111111#32 = .command (.push 0xFF#8) ∧
  decode 0b00110000000000000000000000000000#32 = .command .check ∧
  decode 0b01000000000000000000000000111100#32 = .command (.decu32 60#6) ∧
  decode 0b01010000000000010000000000010011#32 = .command (.scale 19#6 1#2) ∧
  decode 0b01100000000000000001101100001011#32 = .command (.spow 11#6 27#6 0#2) ∧
  decode 0b01100000000000100011111100111100#32 = .command (.spow 60#6 63#6 2#2) ∧
  decode 0x5000003D#32 = .illegal ∧ decode 0x60030000#32 = .illegal ∧ decode 0x28000000#32 = .illegal ∧
  decode 0x70000000#32 = .illegal

/-- Decoding the word of a well-formed command gives it back, every operand at every value (R50, R51, R56). -/
def Obligations.DecodeOfEncode : Prop :=
  ∀ i : Instr, i.wellFormed = true → decode (encode i) = .command i

/-- A word that decodes to a command is that command's only word, the command is well-formed, and the assembler's spelling
of the command gives that word; and a `decu32`, `scale` or `spow` line that gives a word is the spelling of the word's
command, so there is one such line per legal word (R58). -/
def Obligations.OneSpellingPerLegalWord : Prop :=
  (∀ (w : Word) (i : Instr), decode w = .command i →
    i.wellFormed = true ∧ encode i = w ∧ assembleLine (spelling i) = some [w]) ∧
  (∀ (l : AsmLine) (w : Word),
    (∃ n, l = .decu32 n) ∨ (∃ n sc, l = .scale n sc) ∨ (∃ n m sc, l = .spow n m sc) →
    assembleLine l = some [w] → ∃ i, decode w = .command i ∧ l = spelling i) ∧
  assembleLine (.spow 11 27 0#2) = some [0x60001B0B#32] ∧
  assembleLine (.scale 19 1#2) = some [0x50010013#32]

/-- The illegal words are exactly those R54 lists, and executing one on a block that is not faulted takes ILLEGAL. -/
def Obligations.IllegalWordsExactly : Prop :=
  (∀ w : Word, decode w = .illegal ↔
    7 ≤ (opField w).toNat ∨
    ((opField w = 0#4 ∨ opField w = 1#4 ∨ opField w = 3#4) ∧ w &&& 0x0FFFFFFF#32 ≠ 0#32) ∨
    (opField w = 2#4 ∧ w &&& 0x0FFFFF00#32 ≠ 0#32) ∨
    (opField w = 4#4 ∧ w &&& 0x0FFFFFC0#32 ≠ 0#32) ∨
    (opField w = 5#4 ∧ w &&& 0x0FFCFFC0#32 ≠ 0#32) ∨
    (opField w = 6#4 ∧ w &&& 0x0FFCC0C0#32 ≠ 0#32) ∨
    ((opField w = 4#4 ∨ opField w = 5#4 ∨ opField w = 6#4) ∧ 60 < (offField w).toNat) ∨
    ((opField w = 5#4 ∨ opField w = 6#4) ∧ scField w = 3#2)) ∧
  (∀ (w : Word) (s : State), decode w = .illegal → s.fault = false →
    accept w s = .next { s with fault := true, fcode := 1#4, fcmd := w })

/-- A word is the named command exactly when it meets the row's mask, match and extra legality (R50), with the operands of
R51; op 7 to 15 is always illegal. -/
def Obligations.OpcodeRowsSelectTheCommand : Prop :=
  ∀ w : Word,
    (decode w = .command .nop ↔ w &&& 0xFFFFFFFF#32 = 0x00000000#32) ∧
    (decode w = .command .crcinit ↔ w &&& 0xFFFFFFFF#32 = 0x10000000#32) ∧
    (∀ b, decode w = .command (.push b) ↔ w &&& 0xFFFFFF00#32 = 0x20000000#32 ∧ b = w.extractLsb' 0 8) ∧
    (decode w = .command .check ↔ w &&& 0xFFFFFFFF#32 = 0x30000000#32) ∧
    (∀ off, decode w = .command (.decu32 off) ↔
      w &&& 0xFFFFFFC0#32 = 0x40000000#32 ∧ off = w.extractLsb' 0 6 ∧ off.toNat ≤ 60) ∧
    (∀ off sc, decode w = .command (.scale off sc) ↔
      w &&& 0xFFFCFFC0#32 = 0x50000000#32 ∧ off = w.extractLsb' 0 6 ∧ sc = w.extractLsb' 16 2 ∧
      off.toNat ≤ 60 ∧ sc ≠ 3#2) ∧
    (∀ off soff sc, decode w = .command (.spow off soff sc) ↔
      w &&& 0xFFFCC0C0#32 = 0x60000000#32 ∧ off = w.extractLsb' 0 6 ∧ soff = w.extractLsb' 8 6 ∧
      sc = w.extractLsb' 16 2 ∧ off.toNat ≤ 60 ∧ sc ≠ 3#2) ∧
    (7 ≤ (w.extractLsb' 28 4).toNat → decode w = .illegal)

/-- How many words each command has (the table of R56). -/
def Obligations.LegalWordCounts : Prop :=
  Nat.card { w : Word // decode w = .command .nop } = 1 ∧
  Nat.card { w : Word // decode w = .command .crcinit } = 1 ∧
  Nat.card { w : Word // ∃ b, decode w = .command (.push b) } = 256 ∧
  Nat.card { w : Word // decode w = .command .check } = 1 ∧
  Nat.card { w : Word // ∃ off, decode w = .command (.decu32 off) } = 61 ∧
  Nat.card { w : Word // ∃ off sc, decode w = .command (.scale off sc) } = 183 ∧
  Nat.card { w : Word // ∃ off soff sc, decode w = .command (.spow off soff sc) } = 11712

/-- The assembler refuses exactly the lines whose operands are out of range; otherwise it gives one word, which decodes to
the command of the line (R57). -/
def Obligations.AssemblerRefusesOutOfRange : Prop :=
  (∀ n, if n ≤ 255 then ∃ w, assembleLine (.push n) = some [w] ∧ decode w = .command (.push (BitVec.ofNat 8 n))
        else assembleLine (.push n) = none) ∧
  (∀ n, if n ≤ 60 then ∃ w, assembleLine (.decu32 n) = some [w] ∧ decode w = .command (.decu32 (BitVec.ofNat 6 n))
        else assembleLine (.decu32 n) = none) ∧
  (∀ n sc, if n ≤ 60 ∧ sc ≠ 3#2
        then ∃ w, assembleLine (.scale n sc) = some [w] ∧ decode w = .command (.scale (BitVec.ofNat 6 n) sc)
        else assembleLine (.scale n sc) = none) ∧
  (∀ n m sc, if n ≤ 60 ∧ m ≤ 63 ∧ sc ≠ 3#2
        then ∃ w, assembleLine (.spow n m sc) = some [w] ∧
          decode w = .command (.spow (BitVec.ofNat 6 n) (BitVec.ofNat 6 m) sc)
        else assembleLine (.spow n m sc) = none)

/-! ## The step, faults and reset -/

/-- R87: a faulted block ignores the word; an illegal word raises ILLEGAL; a command follows its own rule; a fault raised
anywhere writes only the record (code, w); the step is total; and from FAULT = 1 only the fall of RST leads to FAULT = 0. -/
def Obligations.AcceptedWordStep : Prop :=
  (∀ (w : Word) (s : State), s.fault = true → accept w s = .next s) ∧
  (∀ (w : Word) (s : State), s.fault = false → decode w = .illegal →
    accept w s = .next { s with fault := true, fcode := 1#4, fcmd := w }) ∧
  (∀ (w : Word) (s : State) (i : Instr), s.fault = false → decode w = .command i → accept w s = exec i s) ∧
  (∀ (w : Word) (s : State), ∃ t, accept w s = .next t ∧
    (s.fault = false → t.fault = true → t = { s with fault := true, fcode := t.fcode, fcmd := w })) ∧
  (∀ s t : State, s.fault = true → step s = .next t →
    (t = setHost t.host { s with rst := t.rst, cfgBypass := t.cfgBypass, rdsel := t.rdsel }) ∨
    (s.rst = true ∧ ∃ rest, s.host = .rst false :: rest ∧ t = setHost rest (resetEvent s)))

/-- The causes of R89, the entry of R91 and the order of R93: a faulted block raises nothing; ILLEGAL comes from decoding
alone; SHORT from CHECK with BYPASS = 0 and CNT < 2; UNWRITTEN from a scaler command with an operand byte at or above L; no
other word faults; the entry writes FAULT, the code and the word and nothing else, a command without a fault leaves the
record, no code above 3 is ever written, and the FAULT output follows. -/
def Obligations.FaultCausesAndEntry : Prop :=
  ∀ (w : Word) (s t : State), RamFilled s → accept w s = .next t →
    (s.fault = true → t = s) ∧
    (t.fault = s.fault → t.fcode = s.fcode ∧ t.fcmd = s.fcmd) ∧
    (t.fcode = s.fcode ∨ t.fcode = 1#4 ∨ t.fcode = 2#4 ∨ t.fcode = 3#4) ∧
    faultOut t = t.fault ∧
    (s.fault = false →
      match decode w with
      | .illegal => t = { s with fault := true, fcode := 1#4, fcmd := w }
      | .command .nop => t.fault = false
      | .command .crcinit => t.fault = false
      | .command (.push _) => t.fault = false
      | .command .check =>
        if s.bypass = false ∧ s.cnt.toNat < 2 then t = { s with fault := true, fcode := 2#4, fcmd := w }
        else t.fault = false
      | .command (.decu32 off) =>
        if min s.cnt.toNat 64 < off.toNat + 4 then t = { s with fault := true, fcode := 3#4, fcmd := w }
        else t.fault = false
      | .command (.scale off _) =>
        if min s.cnt.toNat 64 < off.toNat + 4 then t = { s with fault := true, fcode := 3#4, fcmd := w }
        else t.fault = false
      | .command (.spow off soff _) =>
        if min s.cnt.toNat 64 < off.toNat + 4 ∨ min s.cnt.toNat 64 ≤ soff.toNat
        then t = { s with fault := true, fcode := 3#4, fcmd := w }
        else t.fault = false)

/-- R94: a faulted block ignores every command, CRCINIT among them, and keeps the first fault; nothing but the fall of RST
leaves the fault state. -/
def Obligations.QuiescentUntilReset : Prop :=
  ∀ s t : State, s.fault = true → step s = .next t →
    (∀ w rest, s.host = .command w :: rest → t = setHost rest s) ∧
    ((t.fault = true ∧ t.fcode = s.fcode ∧ t.fcmd = s.fcmd) ∨
      (s.rst = true ∧ ∃ rest, s.host = .rst false :: rest))

/-- R26: FAULT, FCODE and FCMD change only by the entry of a first fault, which records the presented word, or by reset,
which clears all three; the FAULT output follows FAULT (60_exceptions.md R103). -/
def Obligations.FaultRecordWriters : Prop :=
  ∀ s t : State, step s = .next t →
    ((t.fault = s.fault ∧ t.fcode = s.fcode ∧ t.fcmd = s.fcmd) ∨
     (s.fault = false ∧ t.fault = true ∧ (t.fcode = 1#4 ∨ t.fcode = 2#4 ∨ t.fcode = 3#4) ∧ cmd s = some t.fcmd) ∨
     (s.rst = true ∧ (∃ rest, s.host = .rst false :: rest) ∧ t.fault = false ∧ t.fcode = 0#4 ∧ t.fcmd = 0#32)) ∧
    faultOut s = s.fault ∧ faultOut t = t.fault

/-- The values R31 gives. DL0, DL1 and the RAM it leaves unspecified: no RAM index can be read, and any bytes in their
place make a state that differs in stale bytes only. -/
def Obligations.ResetValues : Prop :=
  ∀ cfg : Bool,
    let s := State.resetWith cfg
    s.crc = 0xFFFF#16 ∧ s.cnt = 0#16 ∧ s.mvalid = false ∧ s.matchFlag = false ∧ s.raw = 0#32 ∧ s.outn = 0#64 ∧
    s.outs = 0#2 ∧ s.fault = false ∧ s.fcode = 0#4 ∧ s.fcmd = 0#32 ∧ s.bypass = cfg ∧ (∀ a, memRead s a = none) ∧
    ∀ (d0 d1 : Byte) (r : Memory), SameButStale s { s with dl0 := d0, dl1 := d1, ram := r }

/-- R105: while RST = 1 the block is not ready; at the fall of RST every register takes the value of R31, BYPASS that of
CFG_BYPASS, and READY is 1; no other event clears the fault record or changes BYPASS. What R31 leaves unspecified is left
open: the state after the fall is given up to stale bytes, and no RAM byte can be read. -/
def Obligations.ResetAtTheFallOfRst : Prop :=
  (∀ s : State, s.rst = true →
    ready s = false ∧
    (∀ rest, s.host = .rst false :: rest →
      ∃ t, step s = .next t ∧ SameButStale { State.resetWith s.cfgBypass with rdsel := s.rdsel, host := rest } t ∧
        (∀ a, memRead t a = none) ∧ ready t = true ∧ t.bypass = s.cfgBypass)) ∧
  (∀ s t : State, (s.rst = false ∨ ∀ rest, s.host ≠ .rst false :: rest) → step s = .next t →
    t.bypass = s.bypass ∧ (s.fault = true → t.fault = true ∧ t.fcode = s.fcode ∧ t.fcmd = s.fcmd))

/-- R27 and R107: the fall of RST loads BYPASS with the level of CFG_BYPASS and nothing else changes it; a change on
CFG_BYPASS alone changes nothing but the pin; BYPASS is STATUS[2]; and with BYPASS = 1 CHECK reports a match. -/
def Obligations.BypassChangesOnlyAtReset : Prop :=
  (∀ s t : State, step s = .next t →
    t.bypass = if s.rst = true ∧ s.host.head? = some (.rst false) then s.cfgBypass else s.bypass) ∧
  (∀ (s : State) (level : Bool) (rest : List HostMove), s.host = .cfgBypass level :: rest →
    step s = .next { s with cfgBypass := level, host := rest }) ∧
  (∀ s : State, (readPort 0#3 s).getLsbD 2 = s.bypass) ∧
  (∀ s : State, s.bypass = true → exec .check s = .next { s with mvalid := true, matchFlag := true })

/-- R108: right after reset the CRC unit is as CRCINIT leaves it, so CRCINIT then changes nothing (40_crc.md R64). -/
def Obligations.ResetIsAFreshBuffer : Prop :=
  ∀ (cfg : Bool) (s t : State), exec .crcinit s = .next t →
    (State.resetWith cfg).crc = t.crc ∧ (State.resetWith cfg).cnt = t.cnt ∧
    (State.resetWith cfg).mvalid = t.mvalid ∧ (State.resetWith cfg).matchFlag = t.matchFlag ∧
    exec .crcinit (State.resetWith cfg) = .next (State.resetWith cfg)

/-- The step stops only when the host presents a command while READY = 0, which 60_exceptions.md R96 excludes; it is never
refused (the stop is the model's choice, log entry 3). -/
def Obligations.StopsOnlyOnProtocolBreach : Prop :=
  ∀ s : State,
    (step s = .fault .portNotReady ↔ s.rst = true ∧ ∃ w rest, s.host = .command w :: rest) ∧
    ((∃ t, step s = .next t) ∨ step s = .fault .portNotReady)

/-- From a host that presents commands only while READY = 1 (R86, R96) every step answers a next state, and the moves left
still keep the protocol. -/
def Obligations.ProtocolIsKeptByEveryStep : Prop :=
  ∀ s : State, keepsProtocol s.rst s.host = true → ∃ t, step s = .next t ∧ keepsProtocol t.rst t.host = true

/-- A host that presents commands only while READY = 1 (R86, R96) never stops the machine, however many steps it takes. -/
def Obligations.ProtocolKeepsTheMachineRunning : Prop :=
  ∀ (n : Nat) (s : State), keepsProtocol s.rst s.host = true → ∃ t, runSteps n s = .next t

/-! ## Registers, the read port and the access matrix -/

/-- The fields of STATUS (10_state.md R28), bit by bit, the values never shown under the invariant, and its reset value. -/
def Obligations.StatusFields : Prop :=
  (∀ s : State,
    (status s).getLsbD 0 = s.mvalid ∧ (status s).getLsbD 1 = s.matchFlag ∧ (status s).getLsbD 2 = s.bypass ∧
    (status s).getLsbD 3 = s.fault ∧ (status s).extractLsb' 4 4 = s.fcode ∧
    ((status s).extractLsb' 8 2).toNat = min s.cnt.toNat 2 ∧ (status s).extractLsb' 10 2 = s.outs ∧
    (status s).extractLsb' 12 20 = 0#20) ∧
  (∀ s : State, Inv s →
    ((status s).extractLsb' 4 4).toNat ≤ 3 ∧ (status s).extractLsb' 8 2 ≠ 3#2 ∧ (status s).extractLsb' 10 2 ≠ 3#2) ∧
  (∀ cfg : Bool, status (State.resetWith cfg) = if cfg then 4#32 else 0#32)

/-- RDATA for each select (R29). -/
def Obligations.ReadPortMap : Prop :=
  ∀ s : State,
    readPort 0#3 s = status s ∧ (readPort 1#3 s).toNat = s.crc.toNat ∧ (readPort 2#3 s).toNat = s.cnt.toNat ∧
    readPort 3#3 s = s.raw ∧ readPort 5#3 s ++ readPort 4#3 s = s.outn ∧ readPort 6#3 s = s.fcmd ∧
    readPort 7#3 s = 0x00000000#32 ∧ rdata s = readPort s.rdsel s

/-- R30: driving RDSEL and reading changes nothing but the pin, faulted or not; the word read is that of the state before,
and a second read of the same select gives the same word; reserved bits and selects read 0. -/
def Obligations.ReadsHaveNoSideEffect : Prop :=
  ∀ (s : State) (sel : BitVec 3) (rest : List HostMove), s.host = .rdsel sel :: rest →
    step s = .next { s with rdsel := sel, host := rest } ∧
    ∀ t, step s = .next t →
      rdata t = readPort sel s ∧
      (∀ rest' u, t.host = .rdsel sel :: rest' → step t = .next u → rdata u = rdata t) ∧
      readPort 7#3 t = 0#32 ∧ (readPort 0#3 t).extractLsb' 12 20 = 0#20

/-- R33: a step of the host that neither presents a command nor drives RST writes no register and no RAM byte. -/
def Obligations.HostWritesOnlyByCommands : Prop :=
  ∀ s t : State, cmdValid s = false → (∀ level rest, s.host ≠ .rst level :: rest) → step s = .next t →
    t = { s with cfgBypass := t.cfgBypass, rdsel := t.rdsel, host := s.host.tail }

/-- Driving RST changes only the pin, unless it is the fall of RST: the rise, and driving RST to the level it has, write no
register and no RAM byte. R105 says only what the fall does; this is the model's choice, log entry 8. -/
def Obligations.OnlyTheFallOfRstWrites : Prop :=
  ∀ (s : State) (level : Bool) (rest : List HostMove), s.host = .rst level :: rest → s.rst = false ∨ level = true →
    step s = .next { s with rst := level, host := rest }

/-- The access matrix of R32: a command that takes no fault changes only its w cells, what it writes depends only on its r
cells, and fault entry writes only FAULT, FCODE and FCMD. -/
def Obligations.AccessMatrix : Prop :=
  (∀ (i : Instr) (s t : State), s.fault = false → exec i s = .next t →
    (t.fault = true → t = { s with fault := t.fault, fcode := t.fcode, fcmd := t.fcmd }) ∧
    (t.fault = false →
      match i with
      | .nop => t = s
      | .crcinit => t = { s with crc := t.crc, cnt := t.cnt, mvalid := t.mvalid, matchFlag := t.matchFlag }
      | .push _ =>
        t = { s with crc := t.crc, cnt := t.cnt, dl0 := t.dl0, dl1 := t.dl1, mvalid := t.mvalid,
                     matchFlag := t.matchFlag, ram := t.ram }
      | .check => t = { s with mvalid := t.mvalid, matchFlag := t.matchFlag }
      | .decu32 _ => t = { s with raw := t.raw }
      | .scale _ _ => t = { s with raw := t.raw, outn := t.outn, outs := t.outs }
      | .spow _ _ _ => t = { s with raw := t.raw, outn := t.outn, outs := t.outs })) ∧
  (∀ (i : Instr) (s s' t t' : State), s.fault = false → s'.fault = false → exec i s = .next t → exec i s' = .next t' →
    match i with
    | .nop => True
    | .crcinit => t.crc = t'.crc ∧ t.cnt = t'.cnt ∧ t.mvalid = t'.mvalid ∧ t.matchFlag = t'.matchFlag
    | .push _ =>
      s.crc = s'.crc → s.cnt = s'.cnt → s.dl0 = s'.dl0 → s.dl1 = s'.dl1 →
      t.crc = t'.crc ∧ t.cnt = t'.cnt ∧ t.dl0 = t'.dl0 ∧ t.dl1 = t'.dl1 ∧ t.mvalid = t'.mvalid ∧
      t.matchFlag = t'.matchFlag ∧ (s.cnt.toNat < 64 → t.ram.get s.cnt.toNat = t'.ram.get s.cnt.toNat)
    | .check =>
      s.crc = s'.crc → s.cnt = s'.cnt → s.dl0 = s'.dl0 → s.dl1 = s'.dl1 → s.bypass = s'.bypass →
      t.fault = t'.fault ∧ (t.fault = false → t.mvalid = t'.mvalid ∧ t.matchFlag = t'.matchFlag)
    | .decu32 _ =>
      s.cnt = s'.cnt → (∀ a, s.ram.get a = s'.ram.get a) →
      t.fault = t'.fault ∧ (t.fault = false → t.raw = t'.raw)
    | .scale _ _ =>
      s.cnt = s'.cnt → (∀ a, s.ram.get a = s'.ram.get a) →
      t.fault = t'.fault ∧ (t.fault = false → t.raw = t'.raw ∧ t.outn = t'.outn ∧ t.outs = t'.outs)
    | .spow _ _ _ =>
      s.cnt = s'.cnt → (∀ a, s.ram.get a = s'.ram.get a) →
      t.fault = t'.fault ∧ (t.fault = false → t.raw = t'.raw ∧ t.outn = t'.outn ∧ t.outs = t'.outs))

/-- R22: CHECK sets MVALID, and MATCH to the comparison or to 1 under bypass; CRCINIT, PUSH and reset clear both; no other
command writes them, and the scaler commands do not read them; with MVALID = 0, MATCH is 0 in every state of the
invariant. -/
def Obligations.FlagWriters : Prop :=
  (∀ (i : Instr) (s t : State), s.fault = false → exec i s = .next t → t.fault = false →
    match i with
    | .check => t.mvalid = true ∧ (t.matchFlag = true ↔ s.bypass = true ∨ s.crc = s.dl1 ++ s.dl0)
    | .crcinit => t.mvalid = false ∧ t.matchFlag = false
    | .push _ => t.mvalid = false ∧ t.matchFlag = false
    | _ => t.mvalid = s.mvalid ∧ t.matchFlag = s.matchFlag) ∧
  (∀ cfg : Bool, (State.resetWith cfg).mvalid = false ∧ (State.resetWith cfg).matchFlag = false) ∧
  (∀ s : State, Inv s → s.mvalid = false → s.matchFlag = false) ∧
  (∀ (i : Instr) (s t : State) (v m : Bool),
    (∃ off, i = .decu32 off) ∨ (∃ off sc, i = .scale off sc) ∨ (∃ off soff sc, i = .spow off soff sc) →
    exec i s = .next t →
    exec i { s with mvalid := v, matchFlag := m } = .next { t with mvalid := v, matchFlag := m })

/-- R19: PUSH adds one to CNT and saturates at 0xFFFF, CRCINIT and reset set it to 0, no other command changes it, and
RDSEL 2 reads it with bits [31:16] zero. -/
def Obligations.ByteCounterSaturates : Prop :=
  (∀ (i : Instr) (s t : State), exec i s = .next t →
    match i with
    | .push _ => t.cnt.toNat = if s.cnt.toNat = 0xFFFF then 0xFFFF else s.cnt.toNat + 1
    | .crcinit => t.cnt.toNat = 0
    | _ => t.cnt = s.cnt) ∧
  (∀ cfg : Bool, (State.resetWith cfg).cnt.toNat = 0) ∧
  (∀ s : State, (readPort 2#3 s).extractLsb' 0 16 = s.cnt ∧ (readPort 2#3 s).extractLsb' 16 16 = 0#16)

/-! ## NOP and the CRC unit -/

/-- R85: NOP changes nothing; any other word with op = 0 is illegal; a faulted block ignores a NOP too; CRCINIT is the only
command that restarts a unit: it sets CRC and CNT to their first values, while under every other command CNT never falls and
CRC changes only by the step of PUSH; and no command changes BYPASS or clears a fault. -/
def Obligations.NopChangesNothing : Prop :=
  decode 0x00000000#32 = .command .nop ∧
  (∀ s : State, exec .nop s = .next s) ∧
  (∀ w : Word, w ≠ 0#32 → opField w = 0#4 → decode w = .illegal) ∧
  (∀ s : State, s.fault = true → accept 0#32 s = .next s) ∧
  (∀ (i : Instr) (s t : State), exec i s = .next t →
    if i = .crcinit then t.crc = 0xFFFF#16 ∧ t.cnt = 0#16
    else s.cnt.toNat ≤ t.cnt.toNat ∧ (t.crc = s.crc ∨ (∃ b, i = .push b) ∧ t.crc = crcStep s.crc s.dl0)) ∧
  (∀ (i : Instr) (s t : State), exec i s = .next t → t.bypass = s.bypass ∧ (s.fault = true → t.fault = true))

/-- R64: CRCINIT starts a new buffer, leaves the delay line, the scaler registers and the RAM, and makes every RAM byte
unreadable; any other word with op = 1 is illegal; it changes nothing right after reset and does not clear a fault. -/
def Obligations.CrcinitStartsABuffer : Prop :=
  decode 0x10000000#32 = .command .crcinit ∧
  (∀ s : State, ∃ t, exec .crcinit s = .next t ∧
    t = { s with crc := 0xFFFF#16, cnt := 0#16, mvalid := false, matchFlag := false } ∧ ∀ a, memRead t a = none) ∧
  (∀ w : Word, w ≠ 0x10000000#32 → opField w = 1#4 → decode w = .illegal) ∧
  (∀ cfg : Bool, exec .crcinit (State.resetWith cfg) = .next (State.resetWith cfg)) ∧
  (∀ s : State, s.fault = true → accept 0x10000000#32 s = .next s)

/-- R65: PUSH folds the byte two places back once CNT >= 2, shifts the delay line, stores the byte at index CNT while
CNT < 64 and nowhere else, counts, and clears the flags; it never faults; and its word. -/
def Obligations.PushFeedsOneByte : Prop :=
  ∀ (b : Byte) (s : State), encode (.push b) = 0x20000000#32 ||| b.setWidth 32 ∧ ∃ t, exec (.push b) s = .next t ∧
    t = { s with
          crc := if 2 ≤ s.cnt.toNat then crcStep s.crc s.dl0 else s.crc
          dl0 := s.dl1
          dl1 := b
          cnt := BitVec.ofNat 16 (min (s.cnt.toNat + 1) 0xFFFF)
          mvalid := false
          matchFlag := false
          ram := t.ram } ∧
    ∀ a, t.ram.get a = if s.cnt.toNat < 64 ∧ a = s.cnt.toNat then some b else s.ram.get a

/-- R66: CHECK under bypass matches; with fewer than 2 bytes it takes SHORT; otherwise MATCH says whether CRC equals
`DL1*256 + DL0`. It consumes nothing, so a second CHECK gives the same state. -/
def Obligations.CheckComparesTheTrailer : Prop :=
  decode 0x30000000#32 = .command .check ∧
  ∀ s : State,
    (s.bypass = true → exec .check s = .next { s with mvalid := true, matchFlag := true }) ∧
    (s.bypass = false → s.cnt.toNat < 2 →
      exec .check s = .next { s with fault := true, fcode := 2#4, fcmd := 0x30000000#32 }) ∧
    (s.bypass = false → 2 ≤ s.cnt.toNat →
      exec .check s = .next { s with
        mvalid := true, matchFlag := decide (s.crc.toNat = s.dl1.toNat * 256 + s.dl0.toNat) }) ∧
    (∀ t, exec .check s = .next t → exec .check t = .next t)

/-- R70: a trailer pushed high byte first validates only when its two bytes are equal. -/
def Obligations.SwappedTrailerMatchesOnlyIfEqual : Prop :=
  ∀ s : State, s.bypass = false → 2 ≤ s.cnt.toNat → s.crc.toNat = s.dl0.toNat * 256 + s.dl1.toNat →
    ∃ t, exec .check s = .next t ∧ t.mvalid = true ∧ (t.matchFlag = true ↔ s.dl0 = s.dl1)

/-- The register form of the CRC step computes the source's step, and the fold its running CRC (R61 to R63). -/
def Obligations.CrcStepIsTheSourceAlgorithm : Prop :=
  (∀ (c : BitVec 16) (b : Byte), (crcStep c b).toNat = sourceCrcByte c.toNat b.toNat) ∧
  (∀ (c : BitVec 16) (bytes : List Byte), (crcFold c bytes).toNat = sourceCrc c.toNat bytes)

/-- Any change confined to one payload byte alters the running CRC, so the same trailer no longer validates: derived from
the step of R62, the exact reading of the source's property that 90_conflicts.md C9 takes (40_crc.md R69). -/
def Obligations.OneByteChangeIsDetected : Prop :=
  (∀ (c : BitVec 16) (before after : List Byte) (b b' : Byte), b ≠ b' →
    crcFold c (before ++ b :: after) ≠ crcFold c (before ++ b' :: after)) ∧
  (∀ (before after : List Byte) (b b' lo hi : Byte), b ≠ b' →
    computeOrCheck (before ++ b :: after ++ [lo, hi]) = true →
    computeOrCheck (before ++ b' :: after ++ [lo, hi]) = false)

/-- The invariant of R67, kept by every step from every state: the CRC unit and the RAM are as the bytes of the current
buffer leave them, where PUSH adds a byte to the buffer, CRCINIT and the fall of RST start a new one, and no other step and no
word to a faulted block changes it. -/
def Obligations.BufferKeptByEveryStep : Prop :=
  ∀ (s t : State) (bytes : List Byte), HoldsBuffer s bytes → step s = .next t → HoldsBuffer t (bufferAfter s bytes)

/-- R67: from a fresh buffer (after CRCINIT or reset), the pushes of b_0 to b_(n-1) leave CNT, CRC, the delay line and the
RAM as the rule says, and a CHECK after them gives exactly `compute_or_check` for n >= 2 without bypass, and MATCH = 1 under
bypass. -/
def Obligations.StreamingCrcEqualsSource : Prop :=
  (∀ (s : State) (bytes : List Byte) (rest : List HostMove),
    s.crc = 0xFFFF#16 → s.cnt = 0#16 → Presents s (bytes.map fun b => encode (.push b)) rest →
    ∃ t, runSteps bytes.length s = .next t ∧ t.host = rest ∧ t.fault = false ∧
      t.cnt.toNat = min bytes.length 0xFFFF ∧
      (2 ≤ bytes.length → t.crc = crcFold 0xFFFF#16 (bytes.take (bytes.length - 2)) ∧
        bytes[bytes.length - 2]? = some t.dl0 ∧ bytes[bytes.length - 1]? = some t.dl1) ∧
      (bytes.length = 1 → t.crc = 0xFFFF#16 ∧ bytes[0]? = some t.dl1) ∧
      (bytes.length = 0 → t.crc = 0xFFFF#16) ∧
      (∀ i, i < min bytes.length 64 → t.ram.get i = bytes[i]?)) ∧
  (∀ (s : State) (bytes : List Byte) (rest : List HostMove),
    s.crc = 0xFFFF#16 → s.cnt = 0#16 → Presents s ((bytes.map fun b => encode (.push b)) ++ [encode .check]) rest →
    (2 ≤ bytes.length → s.bypass = false →
      ∃ t, runSteps (bytes.length + 1) s = .next t ∧ t.mvalid = true ∧ t.matchFlag = computeOrCheck bytes) ∧
    (s.bypass = true →
      ∃ t, runSteps (bytes.length + 1) s = .next t ∧ t.mvalid = true ∧ t.matchFlag = true)) ∧
  (∀ s t : State, exec .crcinit s = .next t → t.crc = 0xFFFF#16 ∧ t.cnt = 0#16) ∧
  (∀ cfg : Bool, (State.resetWith cfg).crc = 0xFFFF#16 ∧ (State.resetWith cfg).cnt = 0#16)

/-- R60: `pushbytes` and `vframe` assemble to the words the rule lists, and the words of `vframe B`, presented to a block in
any state that is not faulted, leave MATCH (STATUS[1]) equal to `compute_or_check(B)` for at least 2 bytes without
bypass. -/
def Obligations.VframeValidatesTheBuffer : Prop :=
  (∀ bytes : List Byte, assembleLine (.pushbytes bytes) = some (bytes.map fun b => 0x20000000#32 ||| b.setWidth 32)) ∧
  (∀ bytes : List Byte, ∃ pushes, assembleLine (.pushbytes bytes) = some pushes ∧ pushes.length = bytes.length ∧
    assembleLine (.vframe bytes) = some (0x10000000#32 :: (pushes ++ [0x30000000#32]))) ∧
  (∀ (s : State) (bytes : List Byte) (words : List Word) (rest : List HostMove),
    assembleLine (.vframe bytes) = some words → Presents s words rest → 2 ≤ bytes.length → s.bypass = false →
    words.length = bytes.length + 2 ∧
    ∃ t, runSteps (bytes.length + 2) s = .next t ∧ t.host = rest ∧ t.mvalid = true ∧
      (readPort 0#3 t).getLsbD 1 = computeOrCheck bytes)

/-- R68: after CRCINIT, the pushes of a payload and of any two bytes leave its CRC in the register RDSEL 1 reads, and the
payload followed by that CRC's low byte and high byte validates. -/
def Obligations.ComputesTheTrailerToSend : Prop :=
  (∀ (s : State) (payload : List Byte) (x y : Byte) (rest : List HostMove),
    Presents s (encode .crcinit :: ((payload ++ [x, y]).map fun b => encode (.push b))) rest →
    ∃ t, runSteps (payload.length + 3) s = .next t ∧ t.crc = crcFold 0xFFFF#16 payload ∧
      readPort 1#3 t = (crcFold 0xFFFF#16 payload).setWidth 32) ∧
  (∀ payload : List Byte,
    computeOrCheck (payload ++ [(crcFold 0xFFFF#16 payload).extractLsb' 0 8,
      (crcFold 0xFFFF#16 payload).extractLsb' 8 8]) = true)

/-- The frame of NOP, CRCINIT, PUSH and CHECK: what each leaves unchanged, memory byte by byte; the only byte PUSH stores is
the one at CNT, while CNT < 64 (R32, R64, R65, R66, R85). -/
def Obligations.CrcUnitFrame : Prop :=
  ∀ s t : State,
    (exec .nop s = .next t → t = s) ∧
    (exec .crcinit s = .next t →
      t = { s with crc := t.crc, cnt := t.cnt, mvalid := t.mvalid, matchFlag := t.matchFlag } ∧
      ∀ a, t.ram.get a = s.ram.get a) ∧
    (∀ b, exec (.push b) s = .next t →
      t = { s with crc := t.crc, cnt := t.cnt, dl0 := t.dl0, dl1 := t.dl1, mvalid := t.mvalid,
                   matchFlag := t.matchFlag, ram := t.ram } ∧
      ∀ a, ¬(s.cnt.toNat < 64 ∧ a = s.cnt.toNat) → t.ram.get a = s.ram.get a) ∧
    (exec .check s = .next t →
      (t = { s with mvalid := t.mvalid, matchFlag := t.matchFlag } ∨
        t = { s with fault := t.fault, fcode := t.fcode, fcmd := t.fcmd }) ∧
      ∀ a, t.ram.get a = s.ram.get a)

/-! ## The scaler unit -/

/-- R38: four readable bytes assemble most significant byte first; the source's example. -/
def Obligations.FieldsAreBigEndian : Prop :=
  (∀ (s : State) (a : Nat) (b0 b1 b2 b3 : Byte),
    memRead s a = some b0 → memRead s (a + 1) = some b1 → memRead s (a + 2) = some b2 → memRead s (a + 3) = some b3 →
    ∃ r : Word, u32be s a = some r ∧
      r.toNat = b0.toNat * 2 ^ 24 + b1.toNat * 2 ^ 16 + b2.toNat * 2 ^ 8 + b3.toNat) ∧
  (assembleBe 0x00#8 0x24#8 0x8E#8 0x5F#8).toNat = 2395743

/-- R37: a RAM byte is readable only below L = min(CNT, 64), and then it is the byte the RAM holds; CRCINIT makes every byte
unreadable and keeps the bytes. -/
def Obligations.OnlyWrittenBytesAreReadable : Prop :=
  (∀ (s : State) (a : Nat), min s.cnt.toNat 64 ≤ a → memRead s a = none) ∧
  (∀ s : State, RamFilled s → ∀ a, a < min s.cnt.toNat 64 → ∃ b, memRead s a = some b ∧ s.ram.get a = some b) ∧
  (∀ s t : State, exec .crcinit s = .next t → (∀ a, memRead t a = none) ∧ t.ram = s.ram)

/-- R72: a scaler command whose operand bytes are not all below L takes UNWRITTEN and writes nothing but the fault record;
with all of them below L it takes no fault. -/
def Obligations.UnwrittenOperandsFault : Prop :=
  (∀ (s : State) (off : BitVec 6), min s.cnt.toNat 64 < off.toNat + 4 →
    exec (.decu32 off) s = .next { s with fault := true, fcode := 3#4, fcmd := encode (.decu32 off) } ∧
    (∀ sc, exec (.scale off sc) s = .next { s with fault := true, fcode := 3#4, fcmd := encode (.scale off sc) }) ∧
    (∀ soff sc,
      exec (.spow off soff sc) s = .next { s with fault := true, fcode := 3#4, fcmd := encode (.spow off soff sc) })) ∧
  (∀ (s : State) (off soff : BitVec 6) (sc : BitVec 2), min s.cnt.toNat 64 < soff.toNat + 1 →
    exec (.spow off soff sc) s = .next { s with fault := true, fcode := 3#4, fcmd := encode (.spow off soff sc) }) ∧
  (∀ (s : State) (off : BitVec 6), RamFilled s → off.toNat + 4 ≤ min s.cnt.toNat 64 →
    (∃ t, exec (.decu32 off) s = .next t ∧ t.fault = s.fault) ∧
    (∀ sc, ∃ t, exec (.scale off sc) s = .next t ∧ t.fault = s.fault) ∧
    (∀ soff sc, soff.toNat + 1 ≤ min s.cnt.toNat 64 →
      ∃ t, exec (.spow off soff sc) s = .next t ∧ t.fault = s.fault))

/-- R74: DECU32 writes RAW with the big-endian field and nothing else, at any offset the field fits (no alignment,
20_memory.md R41); it takes UNWRITTEN when off + 4 > L; its word, and which words with its op are illegal. -/
def Obligations.Decu32ReadsTheField : Prop :=
  (∀ (s : State) (off : BitVec 6) (b0 b1 b2 b3 : Byte),
    off.toNat + 4 ≤ min s.cnt.toNat 64 →
    s.ram.get off.toNat = some b0 → s.ram.get (off.toNat + 1) = some b1 →
    s.ram.get (off.toNat + 2) = some b2 → s.ram.get (off.toNat + 3) = some b3 →
    ∃ r : Word, r.toNat = b0.toNat * 2 ^ 24 + b1.toNat * 2 ^ 16 + b2.toNat * 2 ^ 8 + b3.toNat ∧
      exec (.decu32 off) s = .next { s with raw := r }) ∧
  (∀ (s : State) (off : BitVec 6), min s.cnt.toNat 64 < off.toNat + 4 →
    exec (.decu32 off) s = .next { s with fault := true, fcode := 3#4, fcmd := encode (.decu32 off) }) ∧
  (∀ off : BitVec 6, encode (.decu32 off) = 0x40000000#32 ||| off.setWidth 32) ∧
  (∀ w : Word, opField w = 4#4 → (decode w = .illegal ↔ 60 < (offField w).toNat ∨ w &&& 0x0FFFFFC0#32 ≠ 0#32))

/-- R75: SCALE writes RAW with the field, OUTN with the same non-negative number, OUTS with the scale code, and nothing
else, which denotes r x 10^-(4 - sc) (R77); it takes UNWRITTEN when off + 4 > L; its word, and which words with its op are
illegal. -/
def Obligations.ScaleWritesTheMantissa : Prop :=
  (∀ (s : State) (off : BitVec 6) (sc : BitVec 2) (b0 b1 b2 b3 : Byte),
    off.toNat + 4 ≤ min s.cnt.toNat 64 →
    s.ram.get off.toNat = some b0 → s.ram.get (off.toNat + 1) = some b1 →
    s.ram.get (off.toNat + 2) = some b2 → s.ram.get (off.toNat + 3) = some b3 →
    ∃ (r : Word) (n : BitVec 64),
      r.toNat = b0.toNat * 2 ^ 24 + b1.toNat * 2 ^ 16 + b2.toNat * 2 ^ 8 + b3.toNat ∧
      n.toInt = r.toNat ∧
      exec (.scale off sc) s = .next { s with raw := r, outn := n, outs := sc } ∧
      scaledValue { s with raw := r, outn := n, outs := sc } = (r.toNat : Rat) / 10 ^ (4 - sc.toNat)) ∧
  (∀ (s : State) (off : BitVec 6) (sc : BitVec 2), min s.cnt.toNat 64 < off.toNat + 4 →
    exec (.scale off sc) s = .next { s with fault := true, fcode := 3#4, fcmd := encode (.scale off sc) }) ∧
  (∀ (off : BitVec 6) (sc : BitVec 2),
    encode (.scale off sc) = 0x50000000#32 ||| sc.setWidth 32 <<< 16 ||| off.setWidth 32) ∧
  (∀ w : Word, opField w = 5#4 →
    (decode w = .illegal ↔ 60 < (offField w).toNat ∨ scField w = 3#2 ∨ w &&& 0x0FFCFFC0#32 ≠ 0#32))

/-- R76 and R73: SPOW writes RAW with the magnitude, OUTN with it negated exactly when the sign byte is 1 and the magnitude
is not 0, OUTS with the scale code, and nothing else, which denotes OUTN x 10^-(4 - sc) (R77); the sign byte may lie inside
the field; it takes UNWRITTEN when off + 4 > L or soff >= L; its word, and which words with its op are illegal. -/
def Obligations.SpowAppliesTheSign : Prop :=
  (∀ (s : State) (off soff : BitVec 6) (sc : BitVec 2) (b0 b1 b2 b3 f : Byte),
    off.toNat + 4 ≤ min s.cnt.toNat 64 → soff.toNat < min s.cnt.toNat 64 →
    s.ram.get off.toNat = some b0 → s.ram.get (off.toNat + 1) = some b1 →
    s.ram.get (off.toNat + 2) = some b2 → s.ram.get (off.toNat + 3) = some b3 →
    s.ram.get soff.toNat = some f →
    ∃ (r : Word) (n : BitVec 64),
      r.toNat = b0.toNat * 2 ^ 24 + b1.toNat * 2 ^ 16 + b2.toNat * 2 ^ 8 + b3.toNat ∧
      n.toInt = (if f.toNat = 1 ∧ r.toNat ≠ 0 then -(r.toNat : Int) else (r.toNat : Int)) ∧
      exec (.spow off soff sc) s = .next { s with raw := r, outn := n, outs := sc } ∧
      scaledValue { s with raw := r, outn := n, outs := sc } = (n.toInt : Rat) / 10 ^ (4 - sc.toNat)) ∧
  (∀ (s : State) (off soff : BitVec 6) (sc : BitVec 2),
    min s.cnt.toNat 64 < off.toNat + 4 ∨ min s.cnt.toNat 64 ≤ soff.toNat →
    exec (.spow off soff sc) s = .next { s with fault := true, fcode := 3#4, fcmd := encode (.spow off soff sc) }) ∧
  (∀ (off soff : BitVec 6) (sc : BitVec 2),
    encode (.spow off soff sc) =
      0x60000000#32 ||| sc.setWidth 32 <<< 16 ||| soff.setWidth 32 <<< 8 ||| off.setWidth 32) ∧
  (∀ w : Word, opField w = 6#4 →
    (decode w = .illegal ↔ 60 < (offField w).toNat ∨ scField w = 3#2 ∨ w &&& 0x0FFCC0C0#32 ≠ 0#32))

/-- R71: on a block that holds a frame, DECU32, SCALE and SPOW compute the source's `decode_u32`, `decode_scaled` and
`decode_signed_power` exactly, the result read as R77 says. -/
def Obligations.ScalerRefinesSource : Prop :=
  ∀ (s : State) (frame : List Byte) (off soff : BitVec 6) (sc : BitVec 2),
    Holds s frame → off.toNat + 4 ≤ min frame.length 64 → sc ≠ 3#2 →
    (∃ t, exec (.decu32 off) s = .next t ∧ t.raw.toNat = decodeU32 frame off.toNat) ∧
    (∃ t, exec (.scale off sc) s = .next t ∧ t.raw.toNat = decodeU32 frame off.toNat ∧
      scaledValue t = decodeScaled frame off.toNat (scaleFactor sc)) ∧
    (soff.toNat < min frame.length 64 →
      ∃ t, exec (.spow off soff sc) s = .next t ∧ t.raw.toNat = decodeU32 frame off.toNat ∧
        scaledValue t = decodeSignedPower frame off.toNat soff.toNat (scaleFactor sc))

/-- R81: SCALE writes 0 to 2^32 - 1 and SPOW -(2^32 - 1) to 2^32 - 1; OUTN[63:32] is all zeros for a non-negative value and
all ones for a negative one. -/
def Obligations.MantissaRange : Prop :=
  ∀ (s t : State) (off soff : BitVec 6) (sc : BitVec 2), s.fault = false → t.fault = false →
    (exec (.scale off sc) s = .next t → 0 ≤ t.outn.toInt ∧ t.outn.toInt ≤ 2 ^ 32 - 1) ∧
    (exec (.spow off soff sc) s = .next t → -(2 ^ 32 - 1) ≤ t.outn.toInt ∧ t.outn.toInt ≤ 2 ^ 32 - 1) ∧
    (exec (.scale off sc) s = .next t ∨ exec (.spow off soff sc) s = .next t →
      t.outn.extractLsb' 32 32 = if t.outn.toInt < 0 then 0xFFFFFFFF#32 else 0#32)

/-- The frame of DECU32, SCALE and SPOW: only RAW, or RAW, OUTN and OUTS, or the fault record, changes; they store to no
byte of memory (R32, R74, R75, R76). -/
def Obligations.ScalerFrame : Prop :=
  ∀ (s t : State) (off soff : BitVec 6) (sc : BitVec 2),
    (exec (.decu32 off) s = .next t →
      (t = { s with raw := t.raw } ∨ t = { s with fault := t.fault, fcode := t.fcode, fcmd := t.fcmd }) ∧
      ∀ a, t.ram.get a = s.ram.get a) ∧
    (exec (.scale off sc) s = .next t ∨ exec (.spow off soff sc) s = .next t →
      (t = { s with raw := t.raw, outn := t.outn, outs := t.outs } ∨
        t = { s with fault := t.fault, fcode := t.fcode, fcmd := t.fcmd }) ∧
      ∀ a, t.ram.get a = s.ram.get a)

/-- R117: a scaler command straight after the PUSH that wrote its last operand byte sees that byte. With the last byte of
the field just pushed, it is the low byte of RAW for DECU32, SCALE and SPOW; with the sign byte just pushed, it is the one
that SPOW's sign follows. -/
def Obligations.PushedByteIsVisibleAtOnce : Prop :=
  ∀ (s t : State) (b : Byte) (off : BitVec 6), RamFilled s → exec (.push b) s = .next t →
    (s.cnt.toNat = off.toNat + 3 → off.toNat ≤ 60 →
      (∃ u, exec (.decu32 off) t = .next u ∧ u.fault = t.fault ∧ u.raw.extractLsb' 0 8 = b) ∧
      (∀ sc, ∃ u, exec (.scale off sc) t = .next u ∧ u.fault = t.fault ∧ u.raw.extractLsb' 0 8 = b ∧
        u.outn.toInt = u.raw.toNat) ∧
      (∀ soff sc, soff.toNat ≤ s.cnt.toNat →
        ∃ u, exec (.spow off soff sc) t = .next u ∧ u.fault = t.fault ∧ u.raw.extractLsb' 0 8 = b)) ∧
    (∀ soff sc, s.cnt.toNat = soff.toNat → off.toNat + 4 ≤ soff.toNat + 1 →
      ∃ u, exec (.spow off soff sc) t = .next u ∧ u.fault = t.fault ∧
        u.outn.toInt = if b = 1#8 ∧ u.raw.toNat ≠ 0 then -(u.raw.toNat : Int) else (u.raw.toNat : Int))

/-- R114: decoding does not depend on the CRC result: whatever the CRC unit's registers other than CNT hold, a scaler
command does the same to RAW, OUTN, OUTS and the fault record. -/
def Obligations.DecodingIsNotGatedOnTheCrc : Prop :=
  ∀ (i : Instr) (s t : State) (c : BitVec 16) (d0 d1 : Byte) (v m : Bool),
    (∃ off, i = .decu32 off) ∨ (∃ off sc, i = .scale off sc) ∨ (∃ off soff sc, i = .spow off soff sc) →
    exec i s = .next t →
    exec i { s with crc := c, dl0 := d0, dl1 := d1, mvalid := v, matchFlag := m } =
      .next { t with crc := c, dl0 := d0, dl1 := d1, mvalid := v, matchFlag := m }

/-- The round trip of the source (R74): the four bytes of any 32-bit number, pushed most significant first after CRCINIT,
decode to it. -/
def Obligations.FieldRoundTrip : Prop :=
  ∀ (s : State) (x : Word) (rest : List HostMove),
    Presents s [encode .crcinit, encode (.push (x.extractLsb' 24 8)), encode (.push (x.extractLsb' 16 8)),
      encode (.push (x.extractLsb' 8 8)), encode (.push (x.extractLsb' 0 8)), encode (.decu32 0#6)] rest →
    ∃ t, runSteps 6 s = .next t ∧ t.raw = x ∧ t.fault = false

/-! ## Whole-machine statements -/

/-- The invariants hold after reset, whatever the level of CFG_BYPASS: `Inv`, the empty buffer, and the host's protocol. -/
def Obligations.InvariantAtReset : Prop :=
  ∀ cfg : Bool, Inv (State.resetWith cfg) ∧ HoldsBuffer (State.resetWith cfg) [] ∧
    keepsProtocol (State.resetWith cfg).rst (State.resetWith cfg).host = true

/-- Every step keeps the invariant: the RAM's canonical form and its filled readable part, the idle CRC, sound flags, a
legal scale code, the mantissa's range and a sound fault record. -/
def Obligations.InvariantKeptByEveryStep : Prop := ∀ s t : State, Inv s → step s = .next t → Inv t

/-- R20 and R37: stale bytes are observable by nothing. Two states that differ only in stale delay-line bytes and in RAM
bytes at or above L read alike on every select, step alike, and stay so. -/
def Obligations.StaleBytesAreUnobservable : Prop :=
  ∀ s t : State, SameButStale s t →
    (∀ sel, readPort sel t = readPort sel s) ∧
    (∀ s', step s = .next s' → ∃ t', step t = .next t' ∧ SameButStale s' t') ∧
    (∀ r, step s = .fault r → step t = .fault r)

/-- A session that keeps the host's duties of R96 never faults the block (60_exceptions.md R95): any resets with
CFG_BYPASS and any frame reads in the order of R110, of buffers of any length, stopping after the size check or the CRC check
where R110 says so, with any reads of registers among the moves, run to their end without a fault. After one frame read, CNT
and the host's verdict are what the buffer's length, the bypass and `compute_or_check` say, the size check first. -/
def Obligations.DutifulSessionNeverFaults : Prop :=
  (∀ (s : State) (acts : List SessionAct) (made rest : List HostMove),
    PresentsWithReads s (sessionMoves s.bypass acts) made rest →
    ∃ t, runSteps made.length s = .next t ∧ t.host = rest ∧ t.fault = false ∧ t.rst = false) ∧
  (∀ (s : State) (frame : List Byte) (made rest : List HostMove),
    PresentsWithReads s (sessionMoves s.bypass [.frame frame]) made rest →
    ∃ t, runSteps made.length s = .next t ∧ t.host = rest ∧ t.fault = false ∧
      t.cnt.toNat = min frame.length 0xFFFF ∧
      verdict t =
        if frame.length ≠ 61 then .readSizeMismatch 61 (min frame.length 0xFFFF)
        else if s.bypass = true ∨ computeOrCheck frame = true then .good
        else .badChecksum)
end

