-- ==== Sys2Proof/Laws/State.lean ====
section
/-! SUPPORT. What each named update of the state does to each field: one lemma per field per update, all by rfl. -/

namespace Sys2Proof.Machine

@[simp] theorem raiseFault_crc (c : FaultCode) (w : Word) (s : State) : (raiseFault c w s).crc = s.crc := rfl
@[simp] theorem raiseFault_cnt (c : FaultCode) (w : Word) (s : State) : (raiseFault c w s).cnt = s.cnt := rfl
@[simp] theorem raiseFault_dl0 (c : FaultCode) (w : Word) (s : State) : (raiseFault c w s).dl0 = s.dl0 := rfl
@[simp] theorem raiseFault_dl1 (c : FaultCode) (w : Word) (s : State) : (raiseFault c w s).dl1 = s.dl1 := rfl
@[simp] theorem raiseFault_mvalid (c : FaultCode) (w : Word) (s : State) : (raiseFault c w s).mvalid = s.mvalid := rfl
@[simp] theorem raiseFault_matchFlag (c : FaultCode) (w : Word) (s : State) : (raiseFault c w s).matchFlag = s.matchFlag := rfl
@[simp] theorem raiseFault_raw (c : FaultCode) (w : Word) (s : State) : (raiseFault c w s).raw = s.raw := rfl
@[simp] theorem raiseFault_outn (c : FaultCode) (w : Word) (s : State) : (raiseFault c w s).outn = s.outn := rfl
@[simp] theorem raiseFault_outs (c : FaultCode) (w : Word) (s : State) : (raiseFault c w s).outs = s.outs := rfl
@[simp] theorem raiseFault_fault (c : FaultCode) (w : Word) (s : State) : (raiseFault c w s).fault = true := rfl
@[simp] theorem raiseFault_fcode (c : FaultCode) (w : Word) (s : State) : (raiseFault c w s).fcode = c.code := rfl
@[simp] theorem raiseFault_fcmd (c : FaultCode) (w : Word) (s : State) : (raiseFault c w s).fcmd = w := rfl
@[simp] theorem raiseFault_bypass (c : FaultCode) (w : Word) (s : State) : (raiseFault c w s).bypass = s.bypass := rfl
@[simp] theorem raiseFault_ram (c : FaultCode) (w : Word) (s : State) : (raiseFault c w s).ram = s.ram := rfl
@[simp] theorem raiseFault_rst (c : FaultCode) (w : Word) (s : State) : (raiseFault c w s).rst = s.rst := rfl
@[simp] theorem raiseFault_cfgBypass (c : FaultCode) (w : Word) (s : State) : (raiseFault c w s).cfgBypass = s.cfgBypass := rfl
@[simp] theorem raiseFault_rdsel (c : FaultCode) (w : Word) (s : State) : (raiseFault c w s).rdsel = s.rdsel := rfl
@[simp] theorem raiseFault_host (c : FaultCode) (w : Word) (s : State) : (raiseFault c w s).host = s.host := rfl

@[simp] theorem setRaw_crc (r : Word) (s : State) : (setRaw r s).crc = s.crc := rfl
@[simp] theorem setRaw_cnt (r : Word) (s : State) : (setRaw r s).cnt = s.cnt := rfl
@[simp] theorem setRaw_dl0 (r : Word) (s : State) : (setRaw r s).dl0 = s.dl0 := rfl
@[simp] theorem setRaw_dl1 (r : Word) (s : State) : (setRaw r s).dl1 = s.dl1 := rfl
@[simp] theorem setRaw_mvalid (r : Word) (s : State) : (setRaw r s).mvalid = s.mvalid := rfl
@[simp] theorem setRaw_matchFlag (r : Word) (s : State) : (setRaw r s).matchFlag = s.matchFlag := rfl
@[simp] theorem setRaw_raw (r : Word) (s : State) : (setRaw r s).raw = r := rfl
@[simp] theorem setRaw_outn (r : Word) (s : State) : (setRaw r s).outn = s.outn := rfl
@[simp] theorem setRaw_outs (r : Word) (s : State) : (setRaw r s).outs = s.outs := rfl
@[simp] theorem setRaw_fault (r : Word) (s : State) : (setRaw r s).fault = s.fault := rfl
@[simp] theorem setRaw_fcode (r : Word) (s : State) : (setRaw r s).fcode = s.fcode := rfl
@[simp] theorem setRaw_fcmd (r : Word) (s : State) : (setRaw r s).fcmd = s.fcmd := rfl
@[simp] theorem setRaw_bypass (r : Word) (s : State) : (setRaw r s).bypass = s.bypass := rfl
@[simp] theorem setRaw_ram (r : Word) (s : State) : (setRaw r s).ram = s.ram := rfl
@[simp] theorem setRaw_rst (r : Word) (s : State) : (setRaw r s).rst = s.rst := rfl
@[simp] theorem setRaw_cfgBypass (r : Word) (s : State) : (setRaw r s).cfgBypass = s.cfgBypass := rfl
@[simp] theorem setRaw_rdsel (r : Word) (s : State) : (setRaw r s).rdsel = s.rdsel := rfl
@[simp] theorem setRaw_host (r : Word) (s : State) : (setRaw r s).host = s.host := rfl

@[simp] theorem setScaled_crc (r : Word) (n : BitVec 64) (sc : BitVec 2) (s : State) : (setScaled r n sc s).crc = s.crc := rfl
@[simp] theorem setScaled_cnt (r : Word) (n : BitVec 64) (sc : BitVec 2) (s : State) : (setScaled r n sc s).cnt = s.cnt := rfl
@[simp] theorem setScaled_dl0 (r : Word) (n : BitVec 64) (sc : BitVec 2) (s : State) : (setScaled r n sc s).dl0 = s.dl0 := rfl
@[simp] theorem setScaled_dl1 (r : Word) (n : BitVec 64) (sc : BitVec 2) (s : State) : (setScaled r n sc s).dl1 = s.dl1 := rfl
@[simp] theorem setScaled_mvalid (r : Word) (n : BitVec 64) (sc : BitVec 2) (s : State) : (setScaled r n sc s).mvalid = s.mvalid := rfl
@[simp] theorem setScaled_matchFlag (r : Word) (n : BitVec 64) (sc : BitVec 2) (s : State) : (setScaled r n sc s).matchFlag = s.matchFlag := rfl
@[simp] theorem setScaled_raw (r : Word) (n : BitVec 64) (sc : BitVec 2) (s : State) : (setScaled r n sc s).raw = r := rfl
@[simp] theorem setScaled_outn (r : Word) (n : BitVec 64) (sc : BitVec 2) (s : State) : (setScaled r n sc s).outn = n := rfl
@[simp] theorem setScaled_outs (r : Word) (n : BitVec 64) (sc : BitVec 2) (s : State) : (setScaled r n sc s).outs = sc := rfl
@[simp] theorem setScaled_fault (r : Word) (n : BitVec 64) (sc : BitVec 2) (s : State) : (setScaled r n sc s).fault = s.fault := rfl
@[simp] theorem setScaled_fcode (r : Word) (n : BitVec 64) (sc : BitVec 2) (s : State) : (setScaled r n sc s).fcode = s.fcode := rfl
@[simp] theorem setScaled_fcmd (r : Word) (n : BitVec 64) (sc : BitVec 2) (s : State) : (setScaled r n sc s).fcmd = s.fcmd := rfl
@[simp] theorem setScaled_bypass (r : Word) (n : BitVec 64) (sc : BitVec 2) (s : State) : (setScaled r n sc s).bypass = s.bypass := rfl
@[simp] theorem setScaled_ram (r : Word) (n : BitVec 64) (sc : BitVec 2) (s : State) : (setScaled r n sc s).ram = s.ram := rfl
@[simp] theorem setScaled_rst (r : Word) (n : BitVec 64) (sc : BitVec 2) (s : State) : (setScaled r n sc s).rst = s.rst := rfl
@[simp] theorem setScaled_cfgBypass (r : Word) (n : BitVec 64) (sc : BitVec 2) (s : State) : (setScaled r n sc s).cfgBypass = s.cfgBypass := rfl
@[simp] theorem setScaled_rdsel (r : Word) (n : BitVec 64) (sc : BitVec 2) (s : State) : (setScaled r n sc s).rdsel = s.rdsel := rfl
@[simp] theorem setScaled_host (r : Word) (n : BitVec 64) (sc : BitVec 2) (s : State) : (setScaled r n sc s).host = s.host := rfl

@[simp] theorem startBuffer_crc (s : State) : (startBuffer s).crc = Config.crcInit := rfl
@[simp] theorem startBuffer_cnt (s : State) : (startBuffer s).cnt = 0#16 := rfl
@[simp] theorem startBuffer_dl0 (s : State) : (startBuffer s).dl0 = s.dl0 := rfl
@[simp] theorem startBuffer_dl1 (s : State) : (startBuffer s).dl1 = s.dl1 := rfl
@[simp] theorem startBuffer_mvalid (s : State) : (startBuffer s).mvalid = s.mvalid := rfl
@[simp] theorem startBuffer_matchFlag (s : State) : (startBuffer s).matchFlag = s.matchFlag := rfl
@[simp] theorem startBuffer_raw (s : State) : (startBuffer s).raw = s.raw := rfl
@[simp] theorem startBuffer_outn (s : State) : (startBuffer s).outn = s.outn := rfl
@[simp] theorem startBuffer_outs (s : State) : (startBuffer s).outs = s.outs := rfl
@[simp] theorem startBuffer_fault (s : State) : (startBuffer s).fault = s.fault := rfl
@[simp] theorem startBuffer_fcode (s : State) : (startBuffer s).fcode = s.fcode := rfl
@[simp] theorem startBuffer_fcmd (s : State) : (startBuffer s).fcmd = s.fcmd := rfl
@[simp] theorem startBuffer_bypass (s : State) : (startBuffer s).bypass = s.bypass := rfl
@[simp] theorem startBuffer_ram (s : State) : (startBuffer s).ram = s.ram := rfl
@[simp] theorem startBuffer_rst (s : State) : (startBuffer s).rst = s.rst := rfl
@[simp] theorem startBuffer_cfgBypass (s : State) : (startBuffer s).cfgBypass = s.cfgBypass := rfl
@[simp] theorem startBuffer_rdsel (s : State) : (startBuffer s).rdsel = s.rdsel := rfl
@[simp] theorem startBuffer_host (s : State) : (startBuffer s).host = s.host := rfl

@[simp] theorem absorb_crc (b : Byte) (s : State) : (absorb b s).crc = crcAfterPush s := rfl
@[simp] theorem absorb_cnt (b : Byte) (s : State) : (absorb b s).cnt = cntAfterPush s.cnt := rfl
@[simp] theorem absorb_dl0 (b : Byte) (s : State) : (absorb b s).dl0 = s.dl1 := rfl
@[simp] theorem absorb_dl1 (b : Byte) (s : State) : (absorb b s).dl1 = b := rfl
@[simp] theorem absorb_mvalid (b : Byte) (s : State) : (absorb b s).mvalid = s.mvalid := rfl
@[simp] theorem absorb_matchFlag (b : Byte) (s : State) : (absorb b s).matchFlag = s.matchFlag := rfl
@[simp] theorem absorb_raw (b : Byte) (s : State) : (absorb b s).raw = s.raw := rfl
@[simp] theorem absorb_outn (b : Byte) (s : State) : (absorb b s).outn = s.outn := rfl
@[simp] theorem absorb_outs (b : Byte) (s : State) : (absorb b s).outs = s.outs := rfl
@[simp] theorem absorb_fault (b : Byte) (s : State) : (absorb b s).fault = s.fault := rfl
@[simp] theorem absorb_fcode (b : Byte) (s : State) : (absorb b s).fcode = s.fcode := rfl
@[simp] theorem absorb_fcmd (b : Byte) (s : State) : (absorb b s).fcmd = s.fcmd := rfl
@[simp] theorem absorb_bypass (b : Byte) (s : State) : (absorb b s).bypass = s.bypass := rfl
@[simp] theorem absorb_ram (b : Byte) (s : State) : (absorb b s).ram = ramAfterPush s b := rfl
@[simp] theorem absorb_rst (b : Byte) (s : State) : (absorb b s).rst = s.rst := rfl
@[simp] theorem absorb_cfgBypass (b : Byte) (s : State) : (absorb b s).cfgBypass = s.cfgBypass := rfl
@[simp] theorem absorb_rdsel (b : Byte) (s : State) : (absorb b s).rdsel = s.rdsel := rfl
@[simp] theorem absorb_host (b : Byte) (s : State) : (absorb b s).host = s.host := rfl

@[simp] theorem setHost_crc (moves : List HostMove) (s : State) : (setHost moves s).crc = s.crc := rfl
@[simp] theorem setHost_cnt (moves : List HostMove) (s : State) : (setHost moves s).cnt = s.cnt := rfl
@[simp] theorem setHost_dl0 (moves : List HostMove) (s : State) : (setHost moves s).dl0 = s.dl0 := rfl
@[simp] theorem setHost_dl1 (moves : List HostMove) (s : State) : (setHost moves s).dl1 = s.dl1 := rfl
@[simp] theorem setHost_mvalid (moves : List HostMove) (s : State) : (setHost moves s).mvalid = s.mvalid := rfl
@[simp] theorem setHost_matchFlag (moves : List HostMove) (s : State) : (setHost moves s).matchFlag = s.matchFlag := rfl
@[simp] theorem setHost_raw (moves : List HostMove) (s : State) : (setHost moves s).raw = s.raw := rfl
@[simp] theorem setHost_outn (moves : List HostMove) (s : State) : (setHost moves s).outn = s.outn := rfl
@[simp] theorem setHost_outs (moves : List HostMove) (s : State) : (setHost moves s).outs = s.outs := rfl
@[simp] theorem setHost_fault (moves : List HostMove) (s : State) : (setHost moves s).fault = s.fault := rfl
@[simp] theorem setHost_fcode (moves : List HostMove) (s : State) : (setHost moves s).fcode = s.fcode := rfl
@[simp] theorem setHost_fcmd (moves : List HostMove) (s : State) : (setHost moves s).fcmd = s.fcmd := rfl
@[simp] theorem setHost_bypass (moves : List HostMove) (s : State) : (setHost moves s).bypass = s.bypass := rfl
@[simp] theorem setHost_ram (moves : List HostMove) (s : State) : (setHost moves s).ram = s.ram := rfl
@[simp] theorem setHost_rst (moves : List HostMove) (s : State) : (setHost moves s).rst = s.rst := rfl
@[simp] theorem setHost_cfgBypass (moves : List HostMove) (s : State) : (setHost moves s).cfgBypass = s.cfgBypass := rfl
@[simp] theorem setHost_rdsel (moves : List HostMove) (s : State) : (setHost moves s).rdsel = s.rdsel := rfl
@[simp] theorem setHost_host (moves : List HostMove) (s : State) : (setHost moves s).host = moves := rfl

@[simp] theorem clearResult_crc (s : State) : (clearResult s).crc = s.crc := rfl
@[simp] theorem clearResult_cnt (s : State) : (clearResult s).cnt = s.cnt := rfl
@[simp] theorem clearResult_dl0 (s : State) : (clearResult s).dl0 = s.dl0 := rfl
@[simp] theorem clearResult_dl1 (s : State) : (clearResult s).dl1 = s.dl1 := rfl
@[simp] theorem clearResult_mvalid (s : State) : (clearResult s).mvalid = false := rfl
@[simp] theorem clearResult_matchFlag (s : State) : (clearResult s).matchFlag = false := rfl
@[simp] theorem clearResult_raw (s : State) : (clearResult s).raw = s.raw := rfl
@[simp] theorem clearResult_outn (s : State) : (clearResult s).outn = s.outn := rfl
@[simp] theorem clearResult_outs (s : State) : (clearResult s).outs = s.outs := rfl
@[simp] theorem clearResult_fault (s : State) : (clearResult s).fault = s.fault := rfl
@[simp] theorem clearResult_fcode (s : State) : (clearResult s).fcode = s.fcode := rfl
@[simp] theorem clearResult_fcmd (s : State) : (clearResult s).fcmd = s.fcmd := rfl
@[simp] theorem clearResult_bypass (s : State) : (clearResult s).bypass = s.bypass := rfl
@[simp] theorem clearResult_ram (s : State) : (clearResult s).ram = s.ram := rfl
@[simp] theorem clearResult_rst (s : State) : (clearResult s).rst = s.rst := rfl
@[simp] theorem clearResult_cfgBypass (s : State) : (clearResult s).cfgBypass = s.cfgBypass := rfl
@[simp] theorem clearResult_rdsel (s : State) : (clearResult s).rdsel = s.rdsel := rfl
@[simp] theorem clearResult_host (s : State) : (clearResult s).host = s.host := rfl

@[simp] theorem setResult_crc (m : Bool) (s : State) : (setResult m s).crc = s.crc := rfl
@[simp] theorem setResult_cnt (m : Bool) (s : State) : (setResult m s).cnt = s.cnt := rfl
@[simp] theorem setResult_dl0 (m : Bool) (s : State) : (setResult m s).dl0 = s.dl0 := rfl
@[simp] theorem setResult_dl1 (m : Bool) (s : State) : (setResult m s).dl1 = s.dl1 := rfl
@[simp] theorem setResult_mvalid (m : Bool) (s : State) : (setResult m s).mvalid = true := rfl
@[simp] theorem setResult_matchFlag (m : Bool) (s : State) : (setResult m s).matchFlag = m := rfl
@[simp] theorem setResult_raw (m : Bool) (s : State) : (setResult m s).raw = s.raw := rfl
@[simp] theorem setResult_outn (m : Bool) (s : State) : (setResult m s).outn = s.outn := rfl
@[simp] theorem setResult_outs (m : Bool) (s : State) : (setResult m s).outs = s.outs := rfl
@[simp] theorem setResult_fault (m : Bool) (s : State) : (setResult m s).fault = s.fault := rfl
@[simp] theorem setResult_fcode (m : Bool) (s : State) : (setResult m s).fcode = s.fcode := rfl
@[simp] theorem setResult_fcmd (m : Bool) (s : State) : (setResult m s).fcmd = s.fcmd := rfl
@[simp] theorem setResult_bypass (m : Bool) (s : State) : (setResult m s).bypass = s.bypass := rfl
@[simp] theorem setResult_ram (m : Bool) (s : State) : (setResult m s).ram = s.ram := rfl
@[simp] theorem setResult_rst (m : Bool) (s : State) : (setResult m s).rst = s.rst := rfl
@[simp] theorem setResult_cfgBypass (m : Bool) (s : State) : (setResult m s).cfgBypass = s.cfgBypass := rfl
@[simp] theorem setResult_rdsel (m : Bool) (s : State) : (setResult m s).rdsel = s.rdsel := rfl
@[simp] theorem setResult_host (m : Bool) (s : State) : (setResult m s).host = s.host := rfl

@[simp] theorem setRst_crc (level : Bool) (s : State) : (setRst level s).crc = s.crc := rfl
@[simp] theorem setRst_cnt (level : Bool) (s : State) : (setRst level s).cnt = s.cnt := rfl
@[simp] theorem setRst_dl0 (level : Bool) (s : State) : (setRst level s).dl0 = s.dl0 := rfl
@[simp] theorem setRst_dl1 (level : Bool) (s : State) : (setRst level s).dl1 = s.dl1 := rfl
@[simp] theorem setRst_mvalid (level : Bool) (s : State) : (setRst level s).mvalid = s.mvalid := rfl
@[simp] theorem setRst_matchFlag (level : Bool) (s : State) : (setRst level s).matchFlag = s.matchFlag := rfl
@[simp] theorem setRst_raw (level : Bool) (s : State) : (setRst level s).raw = s.raw := rfl
@[simp] theorem setRst_outn (level : Bool) (s : State) : (setRst level s).outn = s.outn := rfl
@[simp] theorem setRst_outs (level : Bool) (s : State) : (setRst level s).outs = s.outs := rfl
@[simp] theorem setRst_fault (level : Bool) (s : State) : (setRst level s).fault = s.fault := rfl
@[simp] theorem setRst_fcode (level : Bool) (s : State) : (setRst level s).fcode = s.fcode := rfl
@[simp] theorem setRst_fcmd (level : Bool) (s : State) : (setRst level s).fcmd = s.fcmd := rfl
@[simp] theorem setRst_bypass (level : Bool) (s : State) : (setRst level s).bypass = s.bypass := rfl
@[simp] theorem setRst_ram (level : Bool) (s : State) : (setRst level s).ram = s.ram := rfl
@[simp] theorem setRst_rst (level : Bool) (s : State) : (setRst level s).rst = level := rfl
@[simp] theorem setRst_cfgBypass (level : Bool) (s : State) : (setRst level s).cfgBypass = s.cfgBypass := rfl
@[simp] theorem setRst_rdsel (level : Bool) (s : State) : (setRst level s).rdsel = s.rdsel := rfl
@[simp] theorem setRst_host (level : Bool) (s : State) : (setRst level s).host = s.host := rfl

@[simp] theorem setCfgBypass_crc (level : Bool) (s : State) : (setCfgBypass level s).crc = s.crc := rfl
@[simp] theorem setCfgBypass_cnt (level : Bool) (s : State) : (setCfgBypass level s).cnt = s.cnt := rfl
@[simp] theorem setCfgBypass_dl0 (level : Bool) (s : State) : (setCfgBypass level s).dl0 = s.dl0 := rfl
@[simp] theorem setCfgBypass_dl1 (level : Bool) (s : State) : (setCfgBypass level s).dl1 = s.dl1 := rfl
@[simp] theorem setCfgBypass_mvalid (level : Bool) (s : State) : (setCfgBypass level s).mvalid = s.mvalid := rfl
@[simp] theorem setCfgBypass_matchFlag (level : Bool) (s : State) : (setCfgBypass level s).matchFlag = s.matchFlag := rfl
@[simp] theorem setCfgBypass_raw (level : Bool) (s : State) : (setCfgBypass level s).raw = s.raw := rfl
@[simp] theorem setCfgBypass_outn (level : Bool) (s : State) : (setCfgBypass level s).outn = s.outn := rfl
@[simp] theorem setCfgBypass_outs (level : Bool) (s : State) : (setCfgBypass level s).outs = s.outs := rfl
@[simp] theorem setCfgBypass_fault (level : Bool) (s : State) : (setCfgBypass level s).fault = s.fault := rfl
@[simp] theorem setCfgBypass_fcode (level : Bool) (s : State) : (setCfgBypass level s).fcode = s.fcode := rfl
@[simp] theorem setCfgBypass_fcmd (level : Bool) (s : State) : (setCfgBypass level s).fcmd = s.fcmd := rfl
@[simp] theorem setCfgBypass_bypass (level : Bool) (s : State) : (setCfgBypass level s).bypass = s.bypass := rfl
@[simp] theorem setCfgBypass_ram (level : Bool) (s : State) : (setCfgBypass level s).ram = s.ram := rfl
@[simp] theorem setCfgBypass_rst (level : Bool) (s : State) : (setCfgBypass level s).rst = s.rst := rfl
@[simp] theorem setCfgBypass_cfgBypass (level : Bool) (s : State) : (setCfgBypass level s).cfgBypass = level := rfl
@[simp] theorem setCfgBypass_rdsel (level : Bool) (s : State) : (setCfgBypass level s).rdsel = s.rdsel := rfl
@[simp] theorem setCfgBypass_host (level : Bool) (s : State) : (setCfgBypass level s).host = s.host := rfl

@[simp] theorem setRdsel_crc (sel : BitVec 3) (s : State) : (setRdsel sel s).crc = s.crc := rfl
@[simp] theorem setRdsel_cnt (sel : BitVec 3) (s : State) : (setRdsel sel s).cnt = s.cnt := rfl
@[simp] theorem setRdsel_dl0 (sel : BitVec 3) (s : State) : (setRdsel sel s).dl0 = s.dl0 := rfl
@[simp] theorem setRdsel_dl1 (sel : BitVec 3) (s : State) : (setRdsel sel s).dl1 = s.dl1 := rfl
@[simp] theorem setRdsel_mvalid (sel : BitVec 3) (s : State) : (setRdsel sel s).mvalid = s.mvalid := rfl
@[simp] theorem setRdsel_matchFlag (sel : BitVec 3) (s : State) : (setRdsel sel s).matchFlag = s.matchFlag := rfl
@[simp] theorem setRdsel_raw (sel : BitVec 3) (s : State) : (setRdsel sel s).raw = s.raw := rfl
@[simp] theorem setRdsel_outn (sel : BitVec 3) (s : State) : (setRdsel sel s).outn = s.outn := rfl
@[simp] theorem setRdsel_outs (sel : BitVec 3) (s : State) : (setRdsel sel s).outs = s.outs := rfl
@[simp] theorem setRdsel_fault (sel : BitVec 3) (s : State) : (setRdsel sel s).fault = s.fault := rfl
@[simp] theorem setRdsel_fcode (sel : BitVec 3) (s : State) : (setRdsel sel s).fcode = s.fcode := rfl
@[simp] theorem setRdsel_fcmd (sel : BitVec 3) (s : State) : (setRdsel sel s).fcmd = s.fcmd := rfl
@[simp] theorem setRdsel_bypass (sel : BitVec 3) (s : State) : (setRdsel sel s).bypass = s.bypass := rfl
@[simp] theorem setRdsel_ram (sel : BitVec 3) (s : State) : (setRdsel sel s).ram = s.ram := rfl
@[simp] theorem setRdsel_rst (sel : BitVec 3) (s : State) : (setRdsel sel s).rst = s.rst := rfl
@[simp] theorem setRdsel_cfgBypass (sel : BitVec 3) (s : State) : (setRdsel sel s).cfgBypass = s.cfgBypass := rfl
@[simp] theorem setRdsel_rdsel (sel : BitVec 3) (s : State) : (setRdsel sel s).rdsel = sel := rfl
@[simp] theorem setRdsel_host (sel : BitVec 3) (s : State) : (setRdsel sel s).host = s.host := rfl

@[simp] theorem resetEvent_crc (s : State) : (resetEvent s).crc = Config.crcInit := rfl
@[simp] theorem resetEvent_cnt (s : State) : (resetEvent s).cnt = 0#16 := rfl
@[simp] theorem resetEvent_dl0 (s : State) : (resetEvent s).dl0 = 0#8 := rfl
@[simp] theorem resetEvent_dl1 (s : State) : (resetEvent s).dl1 = 0#8 := rfl
@[simp] theorem resetEvent_mvalid (s : State) : (resetEvent s).mvalid = false := rfl
@[simp] theorem resetEvent_matchFlag (s : State) : (resetEvent s).matchFlag = false := rfl
@[simp] theorem resetEvent_raw (s : State) : (resetEvent s).raw = 0#32 := rfl
@[simp] theorem resetEvent_outn (s : State) : (resetEvent s).outn = 0#64 := rfl
@[simp] theorem resetEvent_outs (s : State) : (resetEvent s).outs = 0#2 := rfl
@[simp] theorem resetEvent_fault (s : State) : (resetEvent s).fault = false := rfl
@[simp] theorem resetEvent_fcode (s : State) : (resetEvent s).fcode = 0#4 := rfl
@[simp] theorem resetEvent_fcmd (s : State) : (resetEvent s).fcmd = 0#32 := rfl
@[simp] theorem resetEvent_bypass (s : State) : (resetEvent s).bypass = s.cfgBypass := rfl
@[simp] theorem resetEvent_ram (s : State) : (resetEvent s).ram = [] := rfl
@[simp] theorem resetEvent_rst (s : State) : (resetEvent s).rst = false := rfl
@[simp] theorem resetEvent_cfgBypass (s : State) : (resetEvent s).cfgBypass = s.cfgBypass := rfl
@[simp] theorem resetEvent_rdsel (s : State) : (resetEvent s).rdsel = s.rdsel := rfl
@[simp] theorem resetEvent_host (s : State) : (resetEvent s).host = s.host := rfl

@[simp] theorem resetWith_crc (cfg : Bool) : (State.resetWith cfg).crc = Config.crcInit := rfl
@[simp] theorem resetWith_cnt (cfg : Bool) : (State.resetWith cfg).cnt = 0#16 := rfl
@[simp] theorem resetWith_dl0 (cfg : Bool) : (State.resetWith cfg).dl0 = 0#8 := rfl
@[simp] theorem resetWith_dl1 (cfg : Bool) : (State.resetWith cfg).dl1 = 0#8 := rfl
@[simp] theorem resetWith_mvalid (cfg : Bool) : (State.resetWith cfg).mvalid = false := rfl
@[simp] theorem resetWith_matchFlag (cfg : Bool) : (State.resetWith cfg).matchFlag = false := rfl
@[simp] theorem resetWith_raw (cfg : Bool) : (State.resetWith cfg).raw = 0#32 := rfl
@[simp] theorem resetWith_outn (cfg : Bool) : (State.resetWith cfg).outn = 0#64 := rfl
@[simp] theorem resetWith_outs (cfg : Bool) : (State.resetWith cfg).outs = 0#2 := rfl
@[simp] theorem resetWith_fault (cfg : Bool) : (State.resetWith cfg).fault = false := rfl
@[simp] theorem resetWith_fcode (cfg : Bool) : (State.resetWith cfg).fcode = 0#4 := rfl
@[simp] theorem resetWith_fcmd (cfg : Bool) : (State.resetWith cfg).fcmd = 0#32 := rfl
@[simp] theorem resetWith_bypass (cfg : Bool) : (State.resetWith cfg).bypass = cfg := rfl
@[simp] theorem resetWith_ram (cfg : Bool) : (State.resetWith cfg).ram = [] := rfl
@[simp] theorem resetWith_rst (cfg : Bool) : (State.resetWith cfg).rst = false := rfl
@[simp] theorem resetWith_cfgBypass (cfg : Bool) : (State.resetWith cfg).cfgBypass = cfg := rfl
@[simp] theorem resetWith_rdsel (cfg : Bool) : (State.resetWith cfg).rdsel = 0#3 := rfl
@[simp] theorem resetWith_host (cfg : Bool) : (State.resetWith cfg).host = [] := rfl

end Sys2Proof.Machine
end

