-- ==== Sys2Proof/Laws/Memory.lean ====
section
/-! SUPPORT. The laws of the frame RAM: a read after a write, the canonical form kept by every operation, and what PUSH does
to the RAM (20_memory.md R35 to R37). -/

namespace Sys2Proof.Machine

@[simp] theorem Memory.get_nil (a : Nat) : Memory.get [] a = none := rfl

/-- A read of the index just written gives the byte written. -/
theorem Memory.get_set_same (m : Memory) (a : Nat) (v : Byte) : (m.set a v).get a = some v := by
  induction m with
  | nil => simp [Memory.set, Memory.get]
  | cons c rest ih =>
    obtain ⟨k, u⟩ := c
    simp only [Memory.set]
    split
    · simp [Memory.get]
    · split
      · simp [Memory.get]
      · rename_i _ hne
        simp [Memory.get, Ne.symm hne, ih]

/-- A write leaves every other index alone. -/
theorem Memory.get_set_other (m : Memory) {a b : Nat} (v : Byte) (h : b ≠ a) : (m.set a v).get b = m.get b := by
  induction m with
  | nil => simp [Memory.set, Memory.get, Ne.symm h]
  | cons c rest ih =>
    obtain ⟨k, u⟩ := c
    simp only [Memory.set]
    split
    · simp [Memory.get, Ne.symm h]
    · split
      · rename_i _ heq
        subst heq
        simp [Memory.get, Ne.symm h]
      · simp [Memory.get, ih]

theorem Memory.get_set (m : Memory) (a b : Nat) (v : Byte) :
    (m.set a v).get b = if b = a then some v else m.get b := by
  split
  · rename_i h; subst h; exact Memory.get_set_same m b v
  · rename_i h; exact Memory.get_set_other m v h

theorem Memory.wf_tail {c : Host.Cell} {m : Memory} (h : Memory.wf (c :: m) = true) : Memory.wf m = true := by
  cases m with
  | nil => rfl
  | cons d rest => simp only [Memory.wf, Bool.and_eq_true] at h; exact h.2

/-- What makes a RAM canonical: its first index lies below the next one, or below 64 when it is the last. -/
theorem Memory.wf_cons {k : Nat} {v : Byte} {m : Memory} :
    Memory.wf ((k, v) :: m) = true ↔
      Memory.wf m = true ∧ k < Config.ramSize ∧ ∀ j u rest, m = (j, u) :: rest → k < j := by
  induction m generalizing k v with
  | nil => simp [Memory.wf]
  | cons d rest ih =>
    obtain ⟨j, u⟩ := d
    simp only [Memory.wf, Bool.and_eq_true, decide_eq_true_eq]
    constructor
    · rintro ⟨hkj, hw⟩
      refine ⟨hw, ?_, ?_⟩
      · have := (ih.mp hw).2.1
        omega
      · rintro j' u' rest' h
        simp only [List.cons.injEq, Prod.mk.injEq] at h
        omega
    · rintro ⟨hw, -, hlt⟩
      exact ⟨hlt j u rest rfl, hw⟩

/-- The first index of a RAM after a write is the written one or the old first one. -/
theorem Memory.head_set (m : Memory) (a : Nat) (v : Byte) {j : Nat} {u : Byte} {rest : Memory}
    (h : m.set a v = (j, u) :: rest) : j = a ∨ ∃ w old, m = (j, w) :: old := by
  cases m with
  | nil => simp only [Memory.set, List.cons.injEq, Prod.mk.injEq] at h; exact .inl h.1.1.symm
  | cons c t =>
    obtain ⟨k, w⟩ := c
    simp only [Memory.set] at h
    split at h
    · simp only [List.cons.injEq, Prod.mk.injEq] at h; exact .inl h.1.1.symm
    · split at h
      · simp only [List.cons.injEq, Prod.mk.injEq] at h; exact .inl h.1.1.symm
      · simp only [List.cons.injEq, Prod.mk.injEq] at h
        exact .inr ⟨w, t, by rw [h.1.1]⟩

/-- A write inside the 64 indices keeps the canonical form. -/
theorem Memory.set_wf {m : Memory} {a : Nat} (v : Byte) (hm : m.wf = true) (ha : a < Config.ramSize) :
    (m.set a v).wf = true := by
  induction m with
  | nil => simpa [Memory.set, Memory.wf] using ha
  | cons c rest ih =>
    obtain ⟨k, u⟩ := c
    have hc := Memory.wf_cons.mp hm
    simp only [Memory.set]
    split
    · rename_i hlt
      simp only [Memory.wf, Bool.and_eq_true, decide_eq_true_eq]
      exact ⟨hlt, hm⟩
    · split
      · rename_i _ heq
        subst heq
        exact Memory.wf_cons.mpr ⟨hc.1, ha, hc.2.2⟩
      · refine Memory.wf_cons.mpr ⟨ih hc.1, hc.2.1, ?_⟩
        rintro j w t h
        rcases Memory.head_set rest a v h with rfl | ⟨w', old, rfl⟩
        · omega
        · exact hc.2.2 j w' old rfl

/-- A canonical RAM holds nothing below its first index. -/
theorem Memory.get_below_head {k : Nat} {v : Byte} {m : Memory} (h : Memory.wf ((k, v) :: m) = true) {a : Nat}
    (ha : a < k) : Memory.get ((k, v) :: m) a = none := by
  induction m generalizing k v with
  | nil => simp [Memory.get]; omega
  | cons d rest ih =>
    obtain ⟨j, u⟩ := d
    have hc := Memory.wf_cons.mp h
    have hkj := hc.2.2 j u rest rfl
    have := ih hc.1 (by omega)
    simp only [Memory.get] at this ⊢
    rw [if_neg (by omega)]
    exact this

/-- A canonical RAM holds nothing at 64 and above (R35). -/
theorem Memory.get_outside {m : Memory} (h : m.wf = true) {a : Nat} (ha : Config.ramSize ≤ a) : m.get a = none := by
  induction m with
  | nil => rfl
  | cons c rest ih =>
    obtain ⟨k, u⟩ := c
    have hc := Memory.wf_cons.mp h
    simp only [Memory.get]
    rw [if_neg (by omega)]
    exact ih hc.1

theorem readableLen_le (s : State) : readableLen s ≤ Config.ramSize := Nat.min_le_right _ _

theorem memRead_below {s : State} {a : Nat} (h : a < readableLen s) : memRead s a = s.ram.get a := by
  simp [memRead, h]

theorem memRead_above {s : State} {a : Nat} (h : readableLen s ≤ a) : memRead s a = none := by
  simp [memRead, Nat.not_lt.mpr h]

/-- While CNT < 64 its low six bits are CNT (R36). -/
theorem cnt_index {c : BitVec 16} (h : c.toNat < Config.ramSize) : (c.extractLsb' 0 6).toNat = c.toNat := by
  simp only [Config.ramSize] at h
  simp only [BitVec.extractLsb'_toNat, Nat.shiftRight_zero]
  omega

/-- The RAM after PUSH, byte by byte (R36): one lemma for every use of it. -/
theorem ramAfterPush_get (s : State) (b : Byte) (a : Nat) :
    (ramAfterPush s b).get a = if s.cnt.toNat < Config.ramSize ∧ a = s.cnt.toNat then some b else s.ram.get a := by
  unfold ramAfterPush
  split
  · rename_i h
    rw [cnt_index h, Memory.get_set]
    simp [h]
  · rename_i h
    simp [h]

/-- PUSH keeps the canonical form. -/
theorem ramAfterPush_wf {s : State} (b : Byte) (h : s.ram.wf = true) : (ramAfterPush s b).wf = true := by
  unfold ramAfterPush
  split
  · rename_i hlt
    exact Memory.set_wf b h (by rw [cnt_index hlt]; exact hlt)
  · exact h

end Sys2Proof.Machine
end

