-- ==== Sys2Proof/Laws/Exec.lean ====
section
/-! SUPPORT. What the shared operations and the step can do, said once: the byte counter, the operand reads, the host's
moves. -/

namespace Sys2Proof.Machine

/-- CNT after PUSH as a number (R19). -/
@[simp] theorem cntAfterPush_toNat (c : BitVec 16) : (cntAfterPush c).toNat = min (c.toNat + 1) 0xFFFF := by
  simp only [cntAfterPush, Config.cntMax, BitVec.toNat_ofNat]
  omega

/-- A field is read exactly when it lies below the readable length and the RAM holds its four bytes (R37, R38, R72). -/
theorem readField_eq_some {s : State} {off : BitVec 6} {r : Word} :
    readField s off = some r ↔
      off.toNat + 4 ≤ readableLen s ∧ ∃ b0 b1 b2 b3,
        s.ram.get off.toNat = some b0 ∧ s.ram.get (off.toNat + 1) = some b1 ∧ s.ram.get (off.toNat + 2) = some b2 ∧
        s.ram.get (off.toNat + 3) = some b3 ∧ r = assembleBe b0 b1 b2 b3 := by
  simp only [readField, fieldOk, decide_eq_true_eq]
  constructor
  · intro h
    split at h
    · rename_i hle
      refine ⟨hle, ?_⟩
      simp only [u32be] at h
      rw [memRead_below (by omega), memRead_below (by omega), memRead_below (by omega), memRead_below (by omega)] at h
      split at h
      · rename_i b0 b1 b2 b3 h0 h1 h2 h3
        exact ⟨b0, b1, b2, b3, h0, h1, h2, h3, by simpa using h.symm⟩
      · simp at h
    · simp at h
  · rintro ⟨hle, b0, b1, b2, b3, h0, h1, h2, h3, rfl⟩
    rw [if_pos hle]
    simp only [u32be]
    rw [memRead_below (by omega), memRead_below (by omega), memRead_below (by omega), memRead_below (by omega), h0, h1,
      h2, h3]

/-- A field not all below the readable length is not read (R72). -/
theorem readField_none {s : State} {off : BitVec 6} (h : readableLen s < off.toNat + 4) : readField s off = none := by
  simp [readField, fieldOk, Nat.not_le.mpr h]

/-- The sign byte is read exactly when it lies below the readable length and the RAM holds it (R72). -/
theorem readSign_eq_some {s : State} {soff : BitVec 6} {f : Byte} :
    readSign s soff = some f ↔ soff.toNat < readableLen s ∧ s.ram.get soff.toNat = some f := by
  simp only [readSign, signOk, decide_eq_true_eq]
  constructor
  · intro h
    split at h
    · rename_i hle
      rw [memRead_below (by omega)] at h
      exact ⟨hle, h⟩
    · simp at h
  · rintro ⟨hle, h⟩
    rw [if_pos (by omega), memRead_below hle, h]

theorem readSign_none {s : State} {soff : BitVec 6} (h : readableLen s ≤ soff.toNat) : readSign s soff = none := by
  simp only [readSign, signOk, decide_eq_true_eq]
  rw [if_neg (by omega)]

/-- The operand reads look at CNT and the RAM's bytes only (R32). -/
theorem readField_congr {s t : State} (hc : t.cnt = s.cnt) (hr : ∀ a, a < readableLen s → t.ram.get a = s.ram.get a)
    (off : BitVec 6) : readField t off = readField s off := by
  have hl : readableLen t = readableLen s := by simp [readableLen, hc]
  have hm : ∀ a, memRead t a = memRead s a := by
    intro a
    simp only [memRead, hl]
    split
    · rename_i h; exact hr a h
    · rfl
  simp [readField, fieldOk, u32be, hl, hm]

theorem readSign_congr {s t : State} (hc : t.cnt = s.cnt) (hr : ∀ a, a < readableLen s → t.ram.get a = s.ram.get a)
    (soff : BitVec 6) : readSign t soff = readSign s soff := by
  have hl : readableLen t = readableLen s := by simp [readableLen, hc]
  have hm : memRead t soff.toNat = memRead s soff.toNat := by
    simp only [memRead, hl]
    split
    · rename_i h; exact hr _ h
    · rfl
  simp [readSign, signOk, hl, hm]

/-- The meaning of every command, in one shape: it answers the next state given here, and nothing else happens. -/
theorem exec_cases (i : Instr) (s : State) :
    exec i s = match i with
      | .nop => .next s
      | .crcinit => .next (clearResult (startBuffer s))
      | .push b => .next (clearResult (absorb b s))
      | .check =>
        .next (if s.bypass = false ∧ s.cnt.toNat < 2 then raiseFault .short 0x30000000#32 s
          else setResult (s.bypass || trailerMatches s) s)
      | .decu32 off =>
        .next ((readField s off).elim (raiseFault .unwritten (encode (.decu32 off)) s) fun r => setRaw r s)
      | .scale off sc =>
        .next ((readField s off).elim (raiseFault .unwritten (encode (.scale off sc)) s)
          fun r => setScaled r (magnitude r) sc s)
      | .spow off soff sc =>
        .next ((readField s off).elim (raiseFault .unwritten (encode (.spow off soff sc)) s) fun r =>
          (readSign s soff).elim (raiseFault .unwritten (encode (.spow off soff sc)) s)
            fun f => setScaled r (signedMantissa r f) sc s) := by
  cases i with
  | nop => rfl
  | crcinit => rfl
  | push b => rfl
  | check =>
    simp only [exec, execCheck, Config.minBuffer]
    cases hb : s.bypass
    · by_cases hc : s.cnt.toNat < 2
      · simp [hc]; rfl
      · simp [hc]
    · simp
  | decu32 off => simp only [exec, execDecu32]; cases readField s off <;> rfl
  | scale off sc => simp only [exec, execScale]; cases readField s off <;> rfl
  | spow off soff sc =>
    simp only [exec, execSpow]
    cases readField s off <;> cases readSign s soff <;> rfl

/-- The shapes of next state a command can give, whatever its operands: a fault taken with the command's own word, no
change, or one named update. -/
theorem exec_shape (i : Instr) (s : State) :
    ∃ t, exec i s = .next t ∧
      (t = raiseFault .short (encode i) s ∨ t = raiseFault .unwritten (encode i) s ∨ t = s ∨
        t = clearResult (startBuffer s) ∨ (∃ b, t = clearResult (absorb b s)) ∨ (∃ m, t = setResult m s) ∨
        (∃ r, t = setRaw r s) ∨ ∃ r n sc, t = setScaled r n sc s) := by
  rw [exec_cases]
  cases i with
  | nop => exact ⟨_, rfl, .inr (.inr (.inl rfl))⟩
  | crcinit => exact ⟨_, rfl, .inr (.inr (.inr (.inl rfl)))⟩
  | push b => exact ⟨_, rfl, .inr (.inr (.inr (.inr (.inl ⟨b, rfl⟩))))⟩
  | check =>
    refine ⟨_, rfl, ?_⟩
    split
    · exact .inl rfl
    · exact .inr (.inr (.inr (.inr (.inr (.inl ⟨_, rfl⟩)))))
  | decu32 off =>
    refine ⟨_, rfl, ?_⟩
    cases readField s off
    · exact .inr (.inl rfl)
    · exact .inr (.inr (.inr (.inr (.inr (.inr (.inl ⟨_, rfl⟩))))))
  | scale off sc =>
    refine ⟨_, rfl, ?_⟩
    cases readField s off
    · exact .inr (.inl rfl)
    · exact .inr (.inr (.inr (.inr (.inr (.inr (.inr ⟨_, _, _, rfl⟩))))))
  | spow off soff sc =>
    refine ⟨_, rfl, ?_⟩
    cases readField s off
    · exact .inr (.inl rfl)
    · cases readSign s soff
      · exact .inr (.inl rfl)
      · exact .inr (.inr (.inr (.inr (.inr (.inr (.inr ⟨_, _, _, rfl⟩))))))

/-- A command neither reads nor writes RDSEL or the host's moves. -/
theorem exec_pins {i : Instr} {s t : State} (h : exec i s = .next t) (sel : BitVec 3) (moves : List HostMove) :
    exec i (setRdsel sel (setHost moves s)) = .next (setRdsel sel (setHost moves t)) := by
  have hf : ∀ off, readField (setRdsel sel (setHost moves s)) off = readField s off :=
    readField_congr rfl fun _ _ => rfl
  have hs : ∀ soff, readSign (setRdsel sel (setHost moves s)) soff = readSign s soff :=
    readSign_congr rfl fun _ _ => rfl
  rw [exec_cases] at h ⊢
  cases i with
  | nop => cases h; rfl
  | crcinit => cases h; rfl
  | push b => cases h; rfl
  | check =>
    cases h
    by_cases hc : s.bypass = false ∧ s.cnt.toNat < 2
    · have hc' : (setRdsel sel (setHost moves s)).bypass = false ∧ (setRdsel sel (setHost moves s)).cnt.toNat < 2 := hc
      simp only [if_pos hc, if_pos hc']; rfl
    · have hc' : ¬((setRdsel sel (setHost moves s)).bypass = false ∧ (setRdsel sel (setHost moves s)).cnt.toNat < 2) := hc
      simp only [if_neg hc, if_neg hc']; rfl
  | decu32 off => cases h; simp only [hf]; cases readField s off <;> rfl
  | scale off sc => cases h; simp only [hf]; cases readField s off <;> rfl
  | spow off soff sc => cases h; simp only [hf, hs]; cases readField s off <;> cases readSign s soff <;> rfl

/-- An accepted word neither reads nor writes RDSEL or the host's moves. -/
theorem accept_pins {w : Word} {s t : State} (h : accept w s = .next t) (sel : BitVec 3) (moves : List HostMove) :
    accept w (setRdsel sel (setHost moves s)) = .next (setRdsel sel (setHost moves t)) := by
  simp only [accept, setRdsel_fault, setHost_fault] at h ⊢
  split at h
  · rename_i hfault; cases h; simp [hfault]
  · rename_i hfault
    simp only [hfault]
    cases hd : decode w with
    | illegal => rw [hd] at h; cases h; rfl
    | command i => rw [hd] at h; exact exec_pins h sel moves

/-- A move that is no read neither reads nor writes RDSEL, nor looks at the moves after it. -/
theorem hostMove_pins {m : HostMove} {s t : State} (hm : ∀ sel, m ≠ .rdsel sel) (h : hostMove m s = .next t)
    (sel : BitVec 3) (moves : List HostMove) :
    hostMove m (setRdsel sel (setHost moves s)) = .next (setRdsel sel (setHost moves t)) := by
  cases m with
  | command w =>
    simp only [hostMove] at h ⊢
    split at h
    · rename_i hr
      rw [if_pos (show ready (setRdsel sel (setHost moves s)) = true from hr)]
      exact accept_pins h sel moves
    · simp at h
  | rst level => cases h; simp only [hostMove, driveRst, setRdsel_rst, setHost_rst]; split <;> rfl
  | cfgBypass level => cases h; rfl
  | rdsel sel' => exact absurd rfl (hm sel')

/-- The trailer as a number, low byte first (20_memory.md R39). -/
theorem trailer_toNat (s : State) : (trailer s).toNat = s.dl1.toNat * 256 + s.dl0.toNat := by
  show (s.dl1 ++ s.dl0 : BitVec (8 + 8)).toNat = _
  rw [BitVec.toNat_append, ← Nat.shiftLeft_add_eq_or_of_lt s.dl0.isLt, Nat.shiftLeft_eq]

/-- The step, by the host's next move (R86, R87, R96, R105). -/
theorem step_idle {s : State} (h : s.host = []) : step s = .next s := by simp [step, portStep, h]

theorem step_command {s : State} {w : Word} {rest : List HostMove} (h : s.host = .command w :: rest)
    (hr : s.rst = false) : step s = accept w (setHost rest s) := by
  simp [step, portStep, h, hostMove, ready, hr]

theorem step_command_in_reset {s : State} {w : Word} {rest : List HostMove} (h : s.host = .command w :: rest)
    (hr : s.rst = true) : step s = .fault .portNotReady := by
  simp [step, portStep, h, hostMove, ready, hr]

theorem step_rst {s : State} {level : Bool} {rest : List HostMove} (h : s.host = .rst level :: rest) :
    step s = .next (driveRst level (setHost rest s)) := by
  simp [step, portStep, h, hostMove]

theorem step_cfgBypass {s : State} {level : Bool} {rest : List HostMove} (h : s.host = .cfgBypass level :: rest) :
    step s = .next (setCfgBypass level (setHost rest s)) := by
  simp [step, portStep, h, hostMove]

theorem step_rdsel {s : State} {sel : BitVec 3} {rest : List HostMove} (h : s.host = .rdsel sel :: rest) :
    step s = .next (setRdsel sel (setHost rest s)) := by
  simp [step, portStep, h, hostMove]

/-- Everything a step that answers a next state can have been: the block idle, a word accepted, the fall of RST, or a pin
driven to a level. -/
theorem step_cases {s t : State} (h : step s = .next t) :
    (s.host = [] ∧ t = s) ∨
    (∃ w rest, s.host = .command w :: rest ∧ s.rst = false ∧ accept w (setHost rest s) = .next t) ∨
    (∃ rest, s.host = .rst false :: rest ∧ s.rst = true ∧ t = resetEvent (setHost rest s)) ∨
    (∃ level rest, s.host = .rst level :: rest ∧ (s.rst = false ∨ level = true) ∧
      t = setRst level (setHost rest s)) ∨
    (∃ level rest, s.host = .cfgBypass level :: rest ∧ t = setCfgBypass level (setHost rest s)) ∨
    (∃ sel rest, s.host = .rdsel sel :: rest ∧ t = setRdsel sel (setHost rest s)) := by
  cases hh : s.host with
  | nil => rw [step_idle hh] at h; cases h; simp
  | cons m rest =>
    cases m with
    | command w =>
      cases hr : s.rst
      · rw [step_command hh hr] at h; simp [h]
      · rw [step_command_in_reset hh hr] at h; simp at h
    | rst level =>
      rw [step_rst hh] at h
      cases hr : s.rst <;> cases level <;> simp [driveRst, hr] at h <;> simp [h]
    | cfgBypass level => rw [step_cfgBypass hh] at h; cases h; simp
    | rdsel sel => rw [step_rdsel hh] at h; cases h; simp

end Sys2Proof.Machine
end

