-- ==== Sys2Proof/Laws/PerInstr.lean ====
section
/-! SUPPORT. A statement about every command's word: under its row's mask it is the row's match word (30_encoding.md R50). -/

namespace Sys2Proof.Laws.TableRow

/-- The mask of the command's row in the table of R50. -/
def mask : Instr → Word
  | .nop => 0xFFFFFFFF#32
  | .crcinit => 0xFFFFFFFF#32
  | .push _ => 0xFFFFFF00#32
  | .check => 0xFFFFFFFF#32
  | .decu32 _ => 0xFFFFFFC0#32
  | .scale _ _ => 0xFFFCFFC0#32
  | .spow _ _ _ => 0xFFFCC0C0#32

/-- The match word of the command's row in the table of R50. -/
def matchWord : Instr → Word
  | .nop => 0x00000000#32
  | .crcinit => 0x10000000#32
  | .push _ => 0x20000000#32
  | .check => 0x30000000#32
  | .decu32 _ => 0x40000000#32
  | .scale _ _ => 0x50000000#32
  | .spow _ _ _ => 0x60000000#32

/-- The command's word meets its row. -/
def Statement (i : Instr) : Prop := encode i &&& mask i = matchWord i

theorem nop : Statement .nop := by unfold Statement; decide

theorem crcinit : Statement .crcinit := by unfold Statement; decide

theorem push (imm8 : Byte) : Statement (.push imm8) := by
  revert imm8
  unfold Statement
  decide

theorem check : Statement .check := by unfold Statement; decide

theorem decu32 (off : BitVec 6) : Statement (.decu32 off) := by
  revert off
  unfold Statement
  decide

theorem scale (off : BitVec 6) (sc : BitVec 2) : Statement (.scale off sc) := by
  revert off sc
  unfold Statement
  decide

/-- A field word keeps only its opcode under the mask of SPOW. -/
theorem spow (off soff : BitVec 6) (sc : BitVec 2) : Statement (.spow off soff sc) := by
  unfold Statement
  ext i hi
  simp only [encode, fieldWord, mask, matchWord, BitVec.getElem_and, BitVec.getElem_append]
  interval_cases i <;> simp

end Sys2Proof.Laws.TableRow
end

