-- ==== Sys2Proof/Laws/Run.lean ====
section
/-! SUPPORT. Runs of many steps: cutting a run in two, and that the claims' run is the host interface's run. -/

namespace Sys2Proof.Machine

/-- A run that starts with a step to `t` goes on from `t`. -/
theorem runSteps_succ {s t : State} (n : Nat) (h : step s = .next t) : runSteps (n + 1) s = runSteps n t := by
  simp [runSteps, h]

/-- A run of `m + n` steps is one of `m` steps followed by one of `n`. -/
theorem runSteps_add {s t : State} (m n : Nat) (h : runSteps m s = .next t) : runSteps (m + n) s = runSteps n t := by
  induction m generalizing s with
  | zero =>
    simp only [runSteps, Host.Outcome.next.injEq] at h
    simp [h]
  | succ m ih =>
    rw [Nat.succ_add]
    simp only [runSteps] at h ⊢
    cases hs : step s with
    | next u => simp only [hs] at h ⊢; exact ih h
    | fault r => simp [hs] at h
    | refused r => simp [hs] at h

/-- The claims' run is the run of the host's interface. -/
theorem runSteps_eq_core_run (n : Nat) (s : State) : runSteps n s = Host.Core.run Sys2Proof.core n s := by
  induction n generalizing s with
  | zero => rfl
  | succ n ih =>
    simp only [runSteps]
    cases h : step s with
    | next u =>
      have h' : Sys2Proof.core.step s = .next u := h
      simp only [Host.Core.run, h']
      exact ih u
    | fault r =>
      have h' : Sys2Proof.core.step s = .fault r := h
      simp only [Host.Core.run, h']
      rfl
    | refused r =>
      have h' : Sys2Proof.core.step s = .refused r := h
      simp only [Host.Core.run, h']
      rfl

theorem crcFold_cons (c : BitVec 16) (b : Byte) (rest : List Byte) :
    crcFold c (b :: rest) = crcFold (crcStep c b) rest := rfl

theorem sourceCrc_cons (c : Nat) (b : Byte) (rest : List Byte) :
    sourceCrc c (b :: rest) = sourceCrc (sourceCrcByte c b.toNat) rest := rfl

/-- The CRC of two pieces in a row. -/
theorem crcFold_append (c : BitVec 16) (p q : List Byte) : crcFold c (p ++ q) = crcFold (crcFold c p) q := by
  induction p generalizing c with
  | nil => rfl
  | cons b rest ih => simp [crcFold, ih]

end Sys2Proof.Machine
end

