-- ==== Sys2Proof/Tests/Slice0.lean ====
section
/-! SUPPORT. Tests of the model, with expected results from the spec (95_test_vectors.md and the examples of the rules), and
for each obligation with hypotheses a concrete state and operands that meet them (witness_...). -/

namespace Sys2Proof.Tests

open Sys2Proof Sys2Proof.Machine

/-- What a result's next state holds under `f`, if it is a next state. -/
def got {α : Type} (f : State → α) : Result → Option α
  | .next t => some (f t)
  | _ => none

/-- The RAM holding these bytes from index `a` on. -/
def ramFrom : Nat → List Byte → Memory
  | _, [] => []
  | a, b :: rest => (a, b) :: ramFrom (a + 1) rest

/-- The reset state with these bytes in the RAM and counted (95_test_vectors.md: registers not named have reset values). -/
def held (bytes : List Byte) : State :=
  { State.reset with cnt := BitVec.ofNat 16 bytes.length, ram := ramFrom 0 bytes }

/-- The reset state with the host about to make these moves. -/
def hostState (moves : List HostMove) : State := { State.reset with host := moves }

/-! ## Well-formedness: each check refuses a term -/

theorem test_illformed_decu32_offset : (Instr.decu32 61#6).wellFormed = false := by decide
theorem test_illformed_scale_offset : (Instr.scale 63#6 0#2).wellFormed = false := by decide
theorem test_illformed_scale_code : (Instr.scale 0#6 3#2).wellFormed = false := by decide
theorem test_illformed_spow_offset : (Instr.spow 61#6 0#6 0#2).wellFormed = false := by decide
theorem test_illformed_spow_code : (Instr.spow 0#6 0#6 3#2).wellFormed = false := by decide
theorem test_wellformed_edges :
    (Instr.decu32 60#6).wellFormed = true ∧ (Instr.spow 60#6 63#6 2#2).wellFormed = true := by decide

/-! ## Decoding: words written out from 30_encoding.md R49 and R58, illegal words of V-DEC-1 -/

theorem test_decode_nop : decode 0b0000_0000000000_00_00_000000_00_000000#32 = .command .nop := by decide
theorem test_decode_crcinit : decode 0b0001_0000000000_00_00_000000_00_000000#32 = .command .crcinit := by decide
theorem test_decode_push : decode 0b0010_00000000000000000000_10100101#32 = .command (.push 0xA5#8) := by decide
theorem test_decode_check : decode 0b0011_0000000000_00_00_000000_00_000000#32 = .command .check := by decide
theorem test_decode_decu32 : decode 0b0100_0000000000_00_00_000000_00_000011#32 = .command (.decu32 3#6) := by decide
theorem test_decode_scale :
    decode 0b0101_0000000000_10_00_000000_00_011111#32 = .command (.scale 31#6 2#2) := by decide
theorem test_decode_spow :
    decode 0b0110_0000000000_00_00_011100_00_101011#32 = .command (.spow 43#6 28#6 0#2) := by decide
theorem test_decode_illegal_crc :
    decode 0x00000001#32 = .illegal ∧ decode 0x10000001#32 = .illegal ∧ decode 0x20000100#32 = .illegal ∧
    decode 0x28000000#32 = .illegal ∧ decode 0x30000001#32 = .illegal := by decide
theorem test_decode_illegal_scaler :
    decode 0x4000003D#32 = .illegal ∧ decode 0x40000040#32 = .illegal ∧ decode 0x40000080#32 = .illegal ∧
    decode 0x50030003#32 = .illegal ∧ decode 0x5000003D#32 = .illegal ∧ decode 0x50040003#32 = .illegal ∧
    decode 0x50000103#32 = .illegal ∧ decode 0x50004003#32 = .illegal := by decide
theorem test_decode_illegal_spow :
    decode 0x60004000#32 = .illegal ∧ decode 0x600000C0#32 = .illegal ∧ decode 0x60030000#32 = .illegal ∧
    decode 0x6000003D#32 = .illegal ∧ decode 0x60040000#32 = .illegal := by decide
theorem test_decode_illegal_op :
    decode 0x70000000#32 = .illegal ∧ decode 0x80000000#32 = .illegal ∧ decode 0xFFFFFFFF#32 = .illegal := by decide
theorem test_encode_field_words :
    encode (expandField .p1) = 0x60001B0B#32 ∧ encode (expandField .pf2) = 0x50010033#32 ∧
    encode (expandField .freq) = 0x5002001F#32 ∧ encode (expandField .p2) = 0x60001C2B#32 := by decide
theorem test_table_word : decodeTableWord 32 0x5002003C = some (.scale 60#6 2#2) := by decide

/-! ## The assembler (R57, R60) -/

theorem test_asm_spow_with_comment :
    assembleText ['s', 'p', 'o', 'w', ' ', '1', '1', ',', ' ', '2', '7', ',', ' ', 'e', '-', '4', ' ', ';', ' ', 'p', '1']
      = some [0x60001B0B#32] := by decide
theorem test_asm_push_hex : assembleText ['p', 'u', 's', 'h', ' ', '0', 'x', 'F', 'F'] = some [0x200000FF#32] := by decide
theorem test_asm_refuses_offset : assembleText ['d', 'e', 'c', 'u', '3', '2', ' ', '6', '1'] = none := by decide
theorem test_asm_vframe :
    assembleText ['v', 'f', 'r', 'a', 'm', 'e', ' ', 'F', 'F', ' ', '0', '0']
      = some [0x10000000#32, 0x200000FF#32, 0x20000000#32, 0x30000000#32] := by decide
theorem test_asm_word :
    assembleText ['.', 'w', 'o', 'r', 'd', ' ', '0', 'x', '7', '0', '0', '0', '0', '0', '0', '0']
      = some [0x70000000#32] := by decide

/-! ## The CRC unit (V-CRC-1 to V-CRC-11) -/

theorem test_crc_step_table :
    crcStep 0xFFFF#16 0x01#8 = 0x807E#16 ∧ crcStep 0xFFFF#16 0x00#8 = 0x40BF#16 ∧ crcStep 0xFFFF#16 0xFF#8 = 0x00FF#16 ∧
    crcStep 0x0000#16 0x00#8 = 0x0000#16 ∧ crcStep 0x0000#16 0x01#8 = 0xC0C1#16 ∧
    crcStep 0x807E#16 0x03#8 = 0x2140#16 := by decide
/-- V-CRC-6: the nine ASCII digits. -/
theorem test_crc_digits :
    crcFold 0xFFFF#16 [0x31#8, 0x32#8, 0x33#8, 0x34#8, 0x35#8, 0x36#8, 0x37#8, 0x38#8, 0x39#8] = 0x4B37#16 := by decide +kernel
/-- W1, the source's own function on the read request. -/
theorem test_source_read_request :
    computeOrCheck [0x01#8, 0x03#8, 0x00#8, 0x48#8, 0x00#8, 0x0E#8, 0x44#8, 0x18#8] = true := by decide +kernel
/-- V-CRC-3. -/
theorem test_crcinit :
    got (fun t => (t.crc, t.cnt, status t))
        (exec .crcinit { State.reset with crc := 0x1844#16, cnt := 8#16, mvalid := true, matchFlag := true })
      = some (0xFFFF#16, 0#16, 0#32) := by decide
/-- V-CRC-10: saturation. -/
theorem test_push_saturates :
    got (fun t => (t.cnt, t.crc, t.dl0, t.dl1, status t))
        (exec (.push 0x03#8) { State.reset with cnt := 0xFFFF#16, dl0 := 0x01#8, dl1 := 0x02#8 })
      = some (0xFFFF#16, 0x807E#16, 0x02#8, 0x03#8, 0x00000200#32) := by decide
/-- R65's example, its last push; the byte lands at index 2. -/
theorem test_push_stores :
    got (fun t => (t.cnt, t.crc, t.ram))
        (exec (.push 0x00#8) { held [0x01#8, 0x03#8] with dl0 := 0x01#8, dl1 := 0x03#8 })
      = some (3#16, 0x807E#16, [(0, 0x01#8), (1, 0x03#8), (2, 0x00#8)]) := by decide
/-- V-CRC-5, `vframe FF 00`: a swapped or wrong trailer does not match. -/
theorem test_check_mismatch :
    got status (exec .check { held [0xFF#8, 0x00#8] with dl0 := 0xFF#8, dl1 := 0x00#8 }) = some 0x00000201#32 := by decide
/-- V-CRC-4: SHORT with one byte pushed. -/
theorem test_check_short :
    got (fun t => (status t, t.fcmd)) (exec .check (held [0x01#8])) = some (0x00000128#32, 0x30000000#32) := by decide

/-! ## The scaler unit (V-SC) -/

/-- V-SC-22's DECU32: RAW alone changes. -/
theorem test_decu32 :
    got (fun t => (t.raw, t.outn, t.outs))
        (exec (.decu32 3#6) { held [1#8, 3#8, 0x38#8, 0x00#8, 0x24#8, 0x8E#8, 0x5F#8] with outn := 1000#64, outs := 1#2 })
      = some (0x00248E5F#32, 1000#64, 1#2) := by decide
/-- V-SC-1. -/
theorem test_decu32_unwritten :
    got (fun t => (t.fcode, t.fcmd, t.raw)) (exec (.decu32 3#6) (held [1#8, 3#8, 0x38#8, 0x00#8, 0x24#8, 0x8E#8]))
      = some (3#4, 0x40000003#32, 0#32) := by decide
/-- V-SC-7c. -/
theorem test_scale :
    got (fun t => (t.raw, t.outn, t.outs)) (exec (.scale 0#6 2#2) (held [0xFF#8, 0xFF#8, 0xFF#8, 0xFF#8]))
      = some (0xFFFFFFFF#32, 0x00000000FFFFFFFF#64, 2#2) := by decide
/-- V-SC-21: bytes from before a CRCINIT are unreadable. -/
theorem test_scale_stale :
    got (fun t => (t.fault, t.fcode, t.outn)) (exec (.scale 0#6 0#2) { held [0#8, 1#8, 2#8, 3#8] with cnt := 0#16 })
      = some (true, 3#4, 0#64) := by decide
/-- V-SC-13: the sign byte overlaps the field. -/
theorem test_spow_overlap :
    got (fun t => (t.raw, t.outn)) (exec (.spow 0#6 3#6 0#2) (held [0#8, 0#8, 0#8, 1#8]))
      = some (1#32, 0xFFFFFFFFFFFFFFFF#64) := by decide
/-- V-SC-10: flag 2 does not negate. -/
theorem test_spow_flag_two :
    got (fun t => t.outn) (exec (.spow 0#6 4#6 0#2) (held [0xFF#8, 0xFF#8, 0xFF#8, 0xFF#8, 0x02#8]))
      = some 4294967295#64 := by decide

/-! ## The step -/

/-- V-SYS-1. -/
theorem test_nop : got id (exec .nop (held [1#8])) = some (held [1#8]) := by decide
/-- V-SYS-2: a faulted block ignores CRCINIT. -/
theorem test_faulted_ignores :
    got (fun t => (t.cnt, t.fcode, t.fcmd))
        (step { hostState [.command 0x10000000#32] with fault := true, fcode := 2#4, fcmd := 0x30000000#32, cnt := 1#16 })
      = some (1#16, 2#4, 0x30000000#32) := by decide
/-- V-DEC-1. -/
theorem test_illegal_word_faults :
    got (fun t => (status t, t.fcmd)) (step (hostState [.command 0x70000000#32]))
      = some (0x00000018#32, 0x70000000#32) := by decide
/-- R105: the fall of RST clears the fault and loads BYPASS (P6's start state). -/
theorem test_reset_loads_bypass :
    got status (step { hostState [.rst false] with rst := true, cfgBypass := true, fault := true, fcode := 1#4 })
      = some 0x00000004#32 := by decide
theorem test_first_command_after_reset :
    got (fun t => (t.cnt, t.dl1)) (step (State.reset.withFetchWord 32 0x200000FF)) = some (1#16, 0xFF#8) := by decide
/-- P1's readings of `p1`: OUTN_LO and OUTN_HI, from the field and its sign byte. -/
theorem test_read_port_mantissa :
    readPort 4#3 { State.reset with outn := signedMantissa 0x008AC4AA#32 0x01#8 } = 0xFF753B56#32 ∧
    readPort 5#3 { State.reset with outn := signedMantissa 0x008AC4AA#32 0x01#8 } = 0xFFFFFFFF#32 := by decide

/-! ## Witnesses: the hypotheses of each obligation are met together -/

/-- Five bytes whose field at 0 is 1 and whose sign byte at 4 is 1. -/
def five : State := held [0#8, 0#8, 0#8, 1#8, 1#8]

/-- Two bytes FF FF pushed: CHECK matches. -/
def pair : State := { held [0xFF#8, 0xFF#8] with dl0 := 0xFF#8, dl1 := 0xFF#8 }

/-- A block with a fault taken. -/
def broken : State := { State.reset with fault := true, fcode := 1#4, fcmd := 0x70000000#32 }

/-- RST high. -/
def inReset : State := { State.reset with rst := true, cfgBypass := true }

theorem witness_StepRunsTheDecodedCommand :
    (hostState [.command 0x20000001#32]).host = .command 0x20000001#32 :: [] ∧
    (hostState [.command 0x20000001#32]).rst = false ∧ (hostState [.command 0x20000001#32]).fault = false ∧
    decode 0x20000001#32 = .command (.push 1#8) := by decide
theorem witness_DecodeOfEncode : (Instr.spow 60#6 63#6 2#2).wellFormed = true := by decide
theorem witness_OneSpellingPerLegalWord : decode 0x60023F3C#32 = .command (.spow 60#6 63#6 2#2) := by decide
theorem witness_OneSpellingPerLegalWord_line : assembleLine (.spow 60 63 2#2) = some [0x60023F3C#32] := by decide
theorem witness_IllegalWordsExactly : decode 0xFFFFFFFF#32 = .illegal ∧ State.reset.fault = false := by decide
theorem witness_OpcodeRowsSelectTheCommand : 7 ≤ ((0x70000000#32).extractLsb' 28 4).toNat := by decide
theorem witness_AcceptedWordStep_faulted :
    broken.fault = true ∧ ∃ t, step { broken with host := [.command 0#32] } = .next t := ⟨rfl, _, rfl⟩
theorem witness_AcceptedWordStep_illegal : State.reset.fault = false ∧ decode 0x60030000#32 = .illegal := by decide
theorem witness_AcceptedWordStep_command : State.reset.fault = false ∧ decode 0#32 = .command .nop := by decide
theorem witness_AcceptedWordStep_raises :
    five.fault = false ∧ ∃ t, accept 0x4000003C#32 five = .next t ∧ t.fault = true := ⟨rfl, _, rfl, rfl⟩
theorem witness_AcceptedWordStep_reset :
    ∃ t, step { broken with rst := true, host := [.rst false] } = .next t ∧ t.fault = false := ⟨_, rfl, rfl⟩
theorem witness_FaultCausesAndEntry_short :
    RamFilled (held [1#8]) ∧ (held [1#8]).fault = false ∧ (held [1#8]).cnt.toNat < 2 ∧
    ∃ t, accept 0x30000000#32 (held [1#8]) = .next t := ⟨by decide, rfl, by decide, _, rfl⟩
theorem witness_FaultCausesAndEntry_field :
    RamFilled five ∧ min five.cnt.toNat 64 < (2#6).toNat + 4 ∧ ∃ t, accept 0x40000002#32 five = .next t :=
  ⟨by decide, by decide, _, rfl⟩
theorem witness_FaultCausesAndEntry_sign :
    RamFilled five ∧ min five.cnt.toNat 64 ≤ (5#6).toNat ∧ ∃ t, accept 0x60000500#32 five = .next t :=
  ⟨by decide, by decide, _, rfl⟩
theorem witness_FaultCausesAndEntry_none :
    RamFilled five ∧ (1#6).toNat + 4 ≤ min five.cnt.toNat 64 ∧ ∃ t, accept 0x40000001#32 five = .next t :=
  ⟨by decide, by decide, _, rfl⟩
theorem witness_QuiescentUntilReset :
    broken.fault = true ∧ ∃ t, step { broken with host := [.command 0x10000000#32] } = .next t := ⟨rfl, _, rfl⟩
theorem witness_FaultRecordWriters : ∃ t, step (hostState [.command 0x70000000#32]) = .next t := ⟨_, rfl⟩
theorem witness_ResetAtTheFallOfRst_falls :
    inReset.rst = true ∧ ({ inReset with host := [.rst false] } : State).host = .rst false :: [] := ⟨rfl, rfl⟩
theorem witness_ResetAtTheFallOfRst_otherwise :
    broken.rst = false ∧ broken.fault = true ∧ ∃ t, step { broken with host := [.rst false] } = .next t :=
  ⟨rfl, rfl, _, rfl⟩
theorem witness_BypassChangesOnlyAtReset_step :
    ∃ t, step { inReset with host := [.rst false] } = .next t ∧ t.bypass = true := ⟨_, rfl, rfl⟩
theorem witness_BypassChangesOnlyAtReset_pin :
    (hostState [.cfgBypass true]).host = .cfgBypass true :: [] := rfl
theorem witness_BypassChangesOnlyAtReset_check : (State.resetWith true).bypass = true := rfl
theorem witness_ResetIsAFreshBuffer : ∃ t, exec .crcinit five = .next t := ⟨_, rfl⟩
theorem witness_ProtocolIsKeptByEveryStep :
    keepsProtocol inReset.rst [.cfgBypass true, .rst false, .command 0x30000000#32] = true ∧
    keepsProtocol State.reset.rst [.command 0x30000000#32, .rst true] = true := by decide
theorem witness_ProtocolKeepsTheMachineRunning :
    keepsProtocol inReset.rst [.rdsel 2#3, .rst false, .command 0x20000001#32, .command 0x30000000#32] = true := by decide
theorem witness_StatusFields : Inv { five with outs := 2#2, crc := 0x1234#16 } := by decide
theorem witness_ReadsHaveNoSideEffect :
    (hostState [.rdsel 7#3, .rdsel 7#3]).host = .rdsel 7#3 :: [.rdsel 7#3] ∧
    ∃ t, step (hostState [.rdsel 7#3, .rdsel 7#3]) = .next t ∧ t.host = .rdsel 7#3 :: [] ∧ ∃ u, step t = .next u :=
  ⟨rfl, _, rfl, rfl, _, rfl⟩
theorem witness_HostWritesOnlyByCommands :
    cmdValid { inReset with host := [.cfgBypass false] } = false ∧
    (∀ level rest, ({ inReset with host := [.cfgBypass false] } : State).host ≠ .rst level :: rest) ∧
    ∃ t, step { inReset with host := [.cfgBypass false] } = .next t := ⟨rfl, by simp, _, rfl⟩
theorem witness_OnlyTheFallOfRstWrites_rise :
    ({ five with host := [.rst true] } : State).host = .rst true :: [] ∧ five.rst = false := ⟨rfl, rfl⟩
theorem witness_OnlyTheFallOfRstWrites_held :
    ({ inReset with host := [.rst true] } : State).host = .rst true :: [] ∧ inReset.rst = true := ⟨rfl, rfl⟩
theorem witness_AccessMatrix_fault :
    five.fault = false ∧ ∃ t, exec (.scale 60#6 0#2) five = .next t ∧ t.fault = true := ⟨rfl, _, rfl, rfl⟩
theorem witness_AccessMatrix_runs :
    five.fault = false ∧ ∃ t, exec (.spow 0#6 4#6 0#2) five = .next t ∧ t.fault = false := ⟨rfl, _, rfl, rfl⟩
theorem witness_AccessMatrix_reads :
    five.cnt = ({ five with crc := 7#16 } : State).cnt ∧
    (∀ a, five.ram.get a = ({ five with crc := 7#16 } : State).ram.get a) ∧
    (∃ t, exec (.decu32 0#6) five = .next t) ∧ ∃ t, exec (.decu32 0#6) { five with crc := 7#16 } = .next t :=
  ⟨rfl, fun _ => rfl, ⟨_, rfl⟩, _, rfl⟩
theorem witness_FlagWriters :
    pair.fault = false ∧ (∃ t, exec .check pair = .next t ∧ t.fault = false) ∧ Inv State.reset ∧
    State.reset.mvalid = false := ⟨rfl, ⟨_, rfl, rfl⟩, by decide, rfl⟩
theorem witness_FlagWriters_scaler : ∃ t, exec (.spow 0#6 4#6 0#2) five = .next t := ⟨_, rfl⟩
theorem witness_ByteCounterSaturates :
    (∃ t, exec (.push 1#8) { five with cnt := 0xFFFF#16 } = .next t) ∧ ∃ t, exec (.push 1#8) five = .next t :=
  ⟨⟨_, rfl⟩, _, rfl⟩
theorem witness_NopChangesNothing : 1#32 ≠ 0#32 ∧ opField 1#32 = 0#4 ∧ broken.fault = true := by decide
theorem witness_NopChangesNothing_commands : broken.fault = true ∧ ∃ t, exec .crcinit broken = .next t := ⟨rfl, _, rfl⟩
theorem witness_NopChangesNothing_restart :
    (∃ t, exec (.push 1#8) pair = .next t ∧ t.crc ≠ pair.crc) ∧ ∃ t, exec .crcinit pair = .next t :=
  ⟨⟨_, rfl, by decide⟩, _, rfl⟩
theorem witness_CrcinitStartsABuffer :
    0x10000001#32 ≠ 0x10000000#32 ∧ opField 0x10000001#32 = 1#4 ∧ broken.fault = true := by decide
theorem witness_CheckComparesTheTrailer_bypass : (State.resetWith true).bypass = true := rfl
theorem witness_CheckComparesTheTrailer_short : (held [1#8]).bypass = false ∧ (held [1#8]).cnt.toNat < 2 := by decide
theorem witness_CheckComparesTheTrailer_compares :
    pair.bypass = false ∧ 2 ≤ pair.cnt.toNat ∧ ∃ t, exec .check pair = .next t := ⟨rfl, by decide, _, rfl⟩
theorem witness_SwappedTrailerMatchesOnlyIfEqual :
    let s : State := { held [0x18#8, 0x44#8] with crc := 0x1844#16, dl0 := 0x18#8, dl1 := 0x44#8 }
    s.bypass = false ∧ 2 ≤ s.cnt.toNat ∧ s.crc.toNat = s.dl0.toNat * 256 + s.dl1.toNat := by decide
theorem witness_OneByteChangeIsDetected :
    0x48#8 ≠ 0x49#8 ∧
    computeOrCheck ([0x01#8, 0x03#8, 0x00#8] ++ 0x48#8 :: [0x00#8, 0x0E#8] ++ [0x44#8, 0x18#8]) = true := by decide +kernel
theorem witness_BufferKeptByEveryStep :
    HoldsBuffer { pair with host := [.command 0x20000001#32] } [0xFF#8, 0xFF#8] ∧
    bufferAfter { pair with host := [.command 0x20000001#32] } [0xFF#8, 0xFF#8] = [0xFF#8, 0xFF#8, 1#8] ∧
    ∃ t, step { pair with host := [.command 0x20000001#32] } = .next t := ⟨by decide, by decide, _, rfl⟩
theorem witness_StreamingCrcEqualsSource_pushes :
    let s := hostState ([0x2000000A#32, 0x2000000B#32].map .command)
    s.crc = 0xFFFF#16 ∧ s.cnt = 0#16 ∧ Presents s ([0x0A#8, 0x0B#8].map fun b => encode (.push b)) [] := by decide
theorem witness_StreamingCrcEqualsSource_check :
    let s := hostState ([0x200000FF#32, 0x200000FF#32, 0x30000000#32].map .command)
    s.crc = 0xFFFF#16 ∧ s.cnt = 0#16 ∧ s.bypass = false ∧
    Presents s (([0xFF#8, 0xFF#8].map fun b => encode (.push b)) ++ [encode .check]) [] := by decide
theorem witness_StreamingCrcEqualsSource_bypass :
    let s : State := { State.resetWith true with host := [.command 0x30000000#32] }
    s.crc = 0xFFFF#16 ∧ s.cnt = 0#16 ∧ s.bypass = true ∧
    Presents s ((([] : List Byte).map fun b => encode (.push b)) ++ [encode .check]) [] := by decide
theorem witness_VframeValidatesTheBuffer :
    let words := [0x10000000#32, 0x200000FF#32, 0x200000FF#32, 0x30000000#32]
    assembleLine (.vframe [0xFF#8, 0xFF#8]) = some words ∧
    Presents { five with host := words.map .command } words [] ∧ five.bypass = false := by decide
theorem witness_ComputesTheTrailerToSend :
    Presents { five with host := [.command 0x10000000#32, .command 0x20000001#32, .command 0x20000002#32] }
      (encode .crcinit :: (([] ++ [1#8, 2#8]).map fun b => encode (.push b))) [] := by decide
theorem witness_CrcUnitFrame :
    (∃ t, exec .nop five = .next t) ∧ (∃ t, exec .crcinit five = .next t) ∧ (∃ t, exec (.push 9#8) five = .next t) ∧
    ∃ t, exec .check pair = .next t := ⟨⟨_, rfl⟩, ⟨_, rfl⟩, ⟨_, rfl⟩, _, rfl⟩
theorem witness_FieldsAreBigEndian :
    memRead five 1 = some 0#8 ∧ memRead five 2 = some 0#8 ∧ memRead five 3 = some 1#8 ∧ memRead five 4 = some 1#8 := by
  decide
theorem witness_OnlyWrittenBytesAreReadable :
    min five.cnt.toNat 64 ≤ 5 ∧ RamFilled five ∧ 4 < min five.cnt.toNat 64 ∧ ∃ t, exec .crcinit five = .next t :=
  ⟨by decide, by decide, by decide, _, rfl⟩
theorem witness_UnwrittenOperandsFault_field : min five.cnt.toNat 64 < (2#6).toNat + 4 := by decide
theorem witness_UnwrittenOperandsFault_sign : min five.cnt.toNat 64 < (5#6).toNat + 1 := by decide
theorem witness_UnwrittenOperandsFault_none :
    RamFilled five ∧ (1#6).toNat + 4 ≤ min five.cnt.toNat 64 ∧ (4#6).toNat + 1 ≤ min five.cnt.toNat 64 := by decide
theorem witness_Decu32ReadsTheField :
    (1#6).toNat + 4 ≤ min five.cnt.toNat 64 ∧ five.ram.get 1 = some 0#8 ∧ five.ram.get 2 = some 0#8 ∧
    five.ram.get 3 = some 1#8 ∧ five.ram.get 4 = some 1#8 := by decide
theorem witness_Decu32ReadsTheField_faults :
    min five.cnt.toNat 64 < (2#6).toNat + 4 ∧ opField 0x4000003D#32 = 4#4 := by decide
theorem witness_ScaleWritesTheMantissa :
    (0#6).toNat + 4 ≤ min five.cnt.toNat 64 ∧ five.ram.get 0 = some 0#8 ∧ five.ram.get 1 = some 0#8 ∧
    five.ram.get 2 = some 0#8 ∧ five.ram.get 3 = some 1#8 := by decide
theorem witness_ScaleWritesTheMantissa_faults :
    min five.cnt.toNat 64 < (2#6).toNat + 4 ∧ opField 0x50030000#32 = 5#4 := by decide
theorem witness_SpowAppliesTheSign :
    (0#6).toNat + 4 ≤ min five.cnt.toNat 64 ∧ (4#6).toNat < min five.cnt.toNat 64 ∧ five.ram.get 0 = some 0#8 ∧
    five.ram.get 1 = some 0#8 ∧ five.ram.get 2 = some 0#8 ∧ five.ram.get 3 = some 1#8 ∧ five.ram.get 4 = some 1#8 := by
  decide
theorem witness_SpowAppliesTheSign_field_faults :
    min five.cnt.toNat 64 < (2#6).toNat + 4 ∧ opField 0x60030000#32 = 6#4 := by decide
theorem witness_SpowAppliesTheSign_sign_faults : min five.cnt.toNat 64 ≤ (5#6).toNat := by decide
theorem witness_ScalerRefinesSource :
    Holds five [0#8, 0#8, 0#8, 1#8, 1#8] ∧ (0#6).toNat + 4 ≤ min ([0#8, 0#8, 0#8, 1#8, 1#8] : List Byte).length 64 ∧
    2#2 ≠ 3#2 ∧ (4#6).toNat < min ([0#8, 0#8, 0#8, 1#8, 1#8] : List Byte).length 64 := by decide
theorem witness_MantissaRange_scale :
    five.fault = false ∧ ∃ t, exec (.scale 0#6 1#2) five = .next t ∧ t.fault = false := ⟨rfl, _, rfl, rfl⟩
theorem witness_MantissaRange_spow :
    five.fault = false ∧ ∃ t, exec (.spow 0#6 4#6 1#2) five = .next t ∧ t.fault = false := ⟨rfl, _, rfl, rfl⟩
theorem witness_ScalerFrame :
    (∃ t, exec (.decu32 0#6) five = .next t) ∧ (∃ t, exec (.scale 0#6 0#2) five = .next t) ∧
    ∃ t, exec (.spow 0#6 4#6 0#2) five = .next t := ⟨⟨_, rfl⟩, ⟨_, rfl⟩, _, rfl⟩
theorem witness_PushedByteIsVisibleAtOnce_field :
    RamFilled five ∧ (∃ t, exec (.push 7#8) five = .next t) ∧ five.cnt.toNat = (2#6).toNat + 3 ∧ (2#6).toNat ≤ 60 ∧
    (4#6).toNat ≤ five.cnt.toNat := ⟨by decide, ⟨_, rfl⟩, by decide, by decide, by decide⟩
theorem witness_PushedByteIsVisibleAtOnce_sign :
    RamFilled five ∧ (∃ t, exec (.push 1#8) five = .next t) ∧ five.cnt.toNat = (5#6).toNat ∧
    (0#6).toNat + 4 ≤ (5#6).toNat + 1 := ⟨by decide, ⟨_, rfl⟩, by decide, by decide⟩
theorem witness_DecodingIsNotGatedOnTheCrc :
    (∃ t, exec (.decu32 0#6) five = .next t) ∧ (∃ t, exec (.scale 0#6 0#2) five = .next t) ∧
    ∃ t, exec (.spow 0#6 4#6 0#2) five = .next t := ⟨⟨_, rfl⟩, ⟨_, rfl⟩, _, rfl⟩
theorem witness_FieldRoundTrip :
    let words := [0x10000000#32, 0x20000080#32, 0x20000000#32, 0x20000000#32, 0x20000001#32, 0x40000000#32]
    let x := 0x80000001#32
    Presents { pair with host := words.map .command }
      [encode .crcinit, encode (.push (x.extractLsb' 24 8)), encode (.push (x.extractLsb' 16 8)),
       encode (.push (x.extractLsb' 8 8)), encode (.push (x.extractLsb' 0 8)), encode (.decu32 0#6)] [] := by decide
theorem witness_InvariantKeptByEveryStep :
    Inv (hostState [.command 0x20000001#32]) ∧ ∃ t, step (hostState [.command 0x20000001#32]) = .next t :=
  ⟨by decide, _, rfl⟩
theorem witness_StaleBytesAreUnobservable :
    SameButStale (hostState [.command 0x20000001#32])
      { hostState [.command 0x20000001#32] with dl0 := 5#8, dl1 := 6#8, ram := [(0, 7#8)] } ∧
    (∃ t, step (hostState [.command 0x20000001#32]) = .next t) ∧
    ∃ r, step { inReset with host := [.command 0#32] } = .fault r :=
  ⟨⟨rfl, by decide, by decide, fun a h => absurd h (by simp [readableLen, hostState, State.reset, State.resetWith])⟩,
    ⟨_, rfl⟩, _, rfl⟩
theorem witness_DutifulSessionNeverFaults :
    let made : List HostMove := [.rst true, .cfgBypass true, .rst false, .command 0x10000000#32, .command 0x20000007#32,
      .rdsel 2#3]
    PresentsWithReads (hostState made) (sessionMoves false [.configure true, .frame [7#8]]) made [] := by decide
theorem witness_DutifulSessionNeverFaults_short :
    let made : List HostMove := [.command 0x10000000#32, .rdsel 0#3, .command 0x20000007#32, .rdsel 2#3]
    PresentsWithReads (hostState made) (sessionMoves false [.frame [7#8]]) made [] := by decide
theorem witness_DutifulSessionNeverFaults_full :
    let frame := List.replicate 61 0#8
    let made := sessionMoves true [.frame frame]
    frame.length = 61 ∧
    PresentsWithReads { State.resetWith true with host := made } (sessionMoves true [.frame frame]) made [] := by
  decide +kernel

end Sys2Proof.Tests
end

section
/-! SUPPORT. Facts about the decoder: a word that decodes to a command is that well-formed command's own word
(30_encoding.md R49, R50, R54, R58). -/

namespace Sys2Proof

theorem legalIf_eq_command {ok : Bool} {i j : Instr} : legalIf ok i = .command j ↔ ok = true ∧ i = j := by
  cases ok <;> simp [legalIf]

/-- A word is its fields side by side, with the three gaps between them (R49). -/
theorem fields_eq_word (w : BitVec (4 + 10 + 2 + 2 + 6 + 2 + 6)) :
    opField w ++ w.extractLsb' 18 10 ++ scField w ++ w.extractLsb' 14 2 ++ soffField w ++ w.extractLsb' 6 2
      ++ offField w = w := by
  ext k hk
  simp only [opField, scField, soffField, offField, BitVec.getElem_append, BitVec.getElem_extractLsb']
  interval_cases k <;> simp

theorem push_fields_eq_word (w : BitVec (4 + 20 + 8)) : opField w ++ w.extractLsb' 8 20 ++ imm8Field w = w := by
  ext k hk
  simp only [opField, imm8Field, BitVec.getElem_append, BitVec.getElem_extractLsb']
  interval_cases k <;> simp

/-- A word whose gaps are zero is the field word of its fields. -/
theorem fieldWord_of_gaps {w : Word} (h18 : w.extractLsb' 18 10 = 0#10) (h14 : w.extractLsb' 14 2 = 0#2)
    (h6 : w.extractLsb' 6 2 = 0#2) : fieldWord (opField w) (scField w) (soffField w) (offField w) = w := by
  have hfields := fields_eq_word w
  rwa [h18, h14, h6] at hfields

/-- A part of a zero field is zero. -/
theorem extractLsb'_eq_zero_of_field {w : Word} {start len : Nat} (h : w.extractLsb' start len = 0#len) {i n : Nat}
    (hi : start ≤ i) (hn : i + n ≤ start + len) : w.extractLsb' i n = 0#n := by
  ext k hk
  have hbit := congrArg (fun x => x.getLsbD (i - start + k)) h
  simp only [BitVec.getLsbD_extractLsb', BitVec.getLsbD_zero] at hbit
  rw [show start + (i - start + k) = i + k by omega] at hbit
  simpa [show i - start + k < len by omega] using hbit

/-- A word that decodes to a command is a well-formed command's own word (R54, R58). -/
theorem wellFormed_and_encode_of_decode {w : Word} {i : Instr} (h : decode w = .command i) :
    i.wellFormed = true ∧ encode i = w := by
  unfold decode at h
  split_ifs at h with hnop hcrcinit hpush hcheck hdecu32 hscale hspow
  · obtain ⟨hw, rfl⟩ := legalIf_eq_command.mp h
    exact ⟨rfl, (eq_of_beq hw).symm⟩
  · obtain ⟨hw, rfl⟩ := legalIf_eq_command.mp h
    exact ⟨rfl, (eq_of_beq hw).symm⟩
  · obtain ⟨hw, rfl⟩ := legalIf_eq_command.mp h
    have hfields := push_fields_eq_word w
    rw [hpush, eq_of_beq hw] at hfields
    exact ⟨rfl, hfields⟩
  · obtain ⟨hw, rfl⟩ := legalIf_eq_command.mp h
    exact ⟨rfl, (eq_of_beq hw).symm⟩
  · obtain ⟨hw, rfl⟩ := legalIf_eq_command.mp h
    obtain ⟨hgap, hoff⟩ : w.extractLsb' 6 22 = 0#22 ∧ offOk (offField w) = true := by simpa using hw
    have hsc : scField w = 0#2 := extractLsb'_eq_zero_of_field hgap (by decide) (by decide)
    have hsoff : soffField w = 0#6 := extractLsb'_eq_zero_of_field hgap (by decide) (by decide)
    have hfields := fieldWord_of_gaps (extractLsb'_eq_zero_of_field hgap (by decide) (by decide))
      (extractLsb'_eq_zero_of_field hgap (by decide) (by decide))
      (extractLsb'_eq_zero_of_field hgap (by decide) (by decide))
    rw [hdecu32, hsc, hsoff] at hfields
    exact ⟨hoff, hfields⟩
  · obtain ⟨hw, rfl⟩ := legalIf_eq_command.mp h
    obtain ⟨⟨⟨h18, hgap⟩, hsc⟩, hoff⟩ : ((w.extractLsb' 18 10 = 0#10 ∧ w.extractLsb' 6 10 = 0#10) ∧
        scOk (scField w) = true) ∧ offOk (offField w) = true := by simpa using hw
    have hsoff : soffField w = 0#6 := extractLsb'_eq_zero_of_field hgap (by decide) (by decide)
    have hfields := fieldWord_of_gaps h18 (extractLsb'_eq_zero_of_field hgap (by decide) (by decide))
      (extractLsb'_eq_zero_of_field hgap (by decide) (by decide))
    rw [hscale, hsoff] at hfields
    exact ⟨by simp [Instr.wellFormed, hsc, hoff], hfields⟩
  · obtain ⟨hw, rfl⟩ := legalIf_eq_command.mp h
    obtain ⟨⟨⟨⟨h18, h14⟩, h6⟩, hsc⟩, hoff⟩ : (((w.extractLsb' 18 10 = 0#10 ∧ w.extractLsb' 14 2 = 0#2) ∧
        w.extractLsb' 6 2 = 0#2) ∧ scOk (scField w) = true) ∧ offOk (offField w) = true := by simpa using hw
    have hfields := fieldWord_of_gaps h18 h14 h6
    rw [hspow] at hfields
    exact ⟨by simp [Instr.wellFormed, hsc, hoff], hfields⟩

theorem wellFormed_of_decode {w : Word} {i : Instr} (h : decode w = .command i) : i.wellFormed = true :=
  (wellFormed_and_encode_of_decode h).1

theorem encode_of_decode {w : Word} {i : Instr} (h : decode w = .command i) : encode i = w :=
  (wellFormed_and_encode_of_decode h).2

end Sys2Proof
end

section
/-! SUPPORT. What one command and one accepted word can do, said once per command: the next state a command answers is named
by its operand reads (40_crc.md R64 to R66, 41_scaler.md R74 to R76, 42_system.md R87). -/

namespace Sys2Proof.Machine

theorem exec_nop_eq {s t : State} (h : exec .nop s = .next t) : t = s := by
  cases h; rfl

theorem exec_crcinit_eq {s t : State} (h : exec .crcinit s = .next t) : t = clearResult (startBuffer s) := by
  cases h; rfl

theorem exec_push_eq {b : Byte} {s t : State} (h : exec (.push b) s = .next t) : t = clearResult (absorb b s) := by
  cases h; rfl

theorem exec_check_short {s : State} (hb : s.bypass = false) (hc : s.cnt.toNat < 2) :
    exec .check s = .next (raiseFault .short 0x30000000#32 s) := by
  rw [exec_cases]
  exact congrArg _ (if_pos ⟨hb, hc⟩)

theorem exec_check_result {s : State} (hlong : s.bypass = false → 2 ≤ s.cnt.toNat) :
    exec .check s = .next (setResult (s.bypass || trailerMatches s) s) := by
  rw [exec_cases]
  exact congrArg _ (if_neg fun hshort => absurd hshort.2 (not_lt.mpr (hlong hshort.1)))

theorem exec_check_cases {s t : State} (h : exec .check s = .next t) :
    (s.bypass = false ∧ s.cnt.toNat < 2 ∧ t = raiseFault .short 0x30000000#32 s) ∨
    ((s.bypass = false → 2 ≤ s.cnt.toNat) ∧ t = setResult (s.bypass || trailerMatches s) s) := by
  by_cases hshort : s.bypass = false ∧ s.cnt.toNat < 2
  · rw [exec_check_short hshort.1 hshort.2] at h
    cases h
    exact .inl ⟨hshort.1, hshort.2, rfl⟩
  · have hlong : s.bypass = false → 2 ≤ s.cnt.toNat := fun hb => not_lt.mp fun hc => hshort ⟨hb, hc⟩
    rw [exec_check_result hlong] at h
    cases h
    exact .inr ⟨hlong, rfl⟩

theorem exec_decu32_cases {off : BitVec 6} {s t : State} (h : exec (.decu32 off) s = .next t) :
    (readField s off = none ∧ t = raiseFault .unwritten (encode (.decu32 off)) s) ∨
    ∃ r, readField s off = some r ∧ t = setRaw r s := by
  rw [exec_cases] at h
  cases h
  cases readField s off <;> simp

theorem exec_scale_cases {off : BitVec 6} {sc : BitVec 2} {s t : State} (h : exec (.scale off sc) s = .next t) :
    (readField s off = none ∧ t = raiseFault .unwritten (encode (.scale off sc)) s) ∨
    ∃ r, readField s off = some r ∧ t = setScaled r (magnitude r) sc s := by
  rw [exec_cases] at h
  cases h
  cases readField s off <;> simp

theorem exec_spow_cases {off soff : BitVec 6} {sc : BitVec 2} {s t : State}
    (h : exec (.spow off soff sc) s = .next t) :
    ((readField s off = none ∨ readSign s soff = none) ∧
      t = raiseFault .unwritten (encode (.spow off soff sc)) s) ∨
    ∃ r f, readField s off = some r ∧ readSign s soff = some f ∧ t = setScaled r (signedMantissa r f) sc s := by
  rw [exec_cases] at h
  cases h
  cases readField s off <;> cases readSign s soff <;> simp

/-- The command is one of DECU32, SCALE and SPOW. -/
abbrev IsScaler (i : Instr) : Prop :=
  (∃ off, i = .decu32 off) ∨ (∃ off sc, i = .scale off sc) ∨ ∃ off soff sc, i = .spow off soff sc

/-- The updates of the state a scaler command can make: UNWRITTEN taken, RAW written by DECU32, or the result registers. -/
def ScalerUpdate (i : Instr) (upd : State → State) : Prop :=
  upd = raiseFault .unwritten (encode i) ∨ (∃ off r, i = .decu32 off ∧ upd = setRaw r) ∨
    ∃ r n sc, upd = setScaled r n sc

/-- On two states with one CNT and the same readable bytes a scaler command makes the same update (R32). -/
theorem exec_scaler_congr {i : Instr} (hi : IsScaler i) {s s' : State} (hcnt : s'.cnt = s.cnt)
    (hram : ∀ a, a < readableLen s → s'.ram.get a = s.ram.get a) :
    ∃ upd, ScalerUpdate i upd ∧ exec i s = .next (upd s) ∧ exec i s' = .next (upd s') := by
  have hfield := readField_congr hcnt hram
  have hsign := readSign_congr hcnt hram
  rw [exec_cases, exec_cases]
  rcases hi with ⟨off, rfl⟩ | ⟨off, sc, rfl⟩ | ⟨off, soff, sc, rfl⟩
  · simp only [hfield]
    cases readField s off with
    | none => exact ⟨_, .inl rfl, rfl, rfl⟩
    | some r => exact ⟨setRaw r, .inr (.inl ⟨off, r, rfl, rfl⟩), rfl, rfl⟩
  · simp only [hfield]
    cases readField s off with
    | none => exact ⟨_, .inl rfl, rfl, rfl⟩
    | some r => exact ⟨setScaled r (magnitude r) sc, .inr (.inr ⟨_, _, _, rfl⟩), rfl, rfl⟩
  · simp only [hfield, hsign]
    cases readField s off with
    | none => exact ⟨_, .inl rfl, rfl, rfl⟩
    | some r =>
      cases readSign s soff with
      | none => exact ⟨_, .inl rfl, rfl, rfl⟩
      | some f => exact ⟨setScaled r (signedMantissa r f) sc, .inr (.inr ⟨_, _, _, rfl⟩), rfl, rfl⟩

theorem exec_scaler_update {i : Instr} (hi : IsScaler i) {s t : State} (h : exec i s = .next t) :
    ∃ upd, ScalerUpdate i upd ∧ t = upd s := by
  obtain ⟨upd, hupd, hs, -⟩ := exec_scaler_congr hi (s := s) (s' := s) rfl fun _ _ => rfl
  rw [hs] at h
  cases h
  exact ⟨upd, hupd, rfl⟩

/-- A command takes SHORT or UNWRITTEN with its own word, or leaves the fault record alone (R26, R91). -/
theorem exec_fault_record {i : Instr} {s t : State} (h : exec i s = .next t) :
    (t.fault = s.fault ∧ t.fcode = s.fcode ∧ t.fcmd = s.fcmd) ∨
    (t.fault = true ∧ (t.fcode = 2#4 ∨ t.fcode = 3#4) ∧ t.fcmd = encode i) := by
  obtain ⟨u, hu, hshape⟩ := exec_shape i s
  obtain rfl : u = t := by rw [hu] at h; cases h; rfl
  rcases hshape with rfl | rfl | rfl | rfl | ⟨b, rfl⟩ | ⟨m, rfl⟩ | ⟨r, rfl⟩ | ⟨r, n, sc, rfl⟩
  · exact .inr ⟨rfl, .inl rfl, rfl⟩
  · exact .inr ⟨rfl, .inr rfl, rfl⟩
  all_goals exact .inl ⟨rfl, rfl, rfl⟩

theorem exec_bypass {i : Instr} {s t : State} (h : exec i s = .next t) : t.bypass = s.bypass := by
  obtain ⟨u, hu, hshape⟩ := exec_shape i s
  obtain rfl : u = t := by rw [hu] at h; cases h; rfl
  rcases hshape with rfl | rfl | rfl | rfl | ⟨b, rfl⟩ | ⟨m, rfl⟩ | ⟨r, rfl⟩ | ⟨r, n, sc, rfl⟩ <;> rfl

/-- An accepted word is ignored by a faulted block, takes ILLEGAL, or is a command that runs (R87). -/
theorem accept_cases {w : Word} {s t : State} (h : accept w s = .next t) :
    (s.fault = true ∧ t = s) ∨
    (s.fault = false ∧ decode w = .illegal ∧ t = raiseFault .illegal w s) ∨
    (s.fault = false ∧ ∃ i, decode w = .command i ∧ exec i s = .next t) := by
  unfold accept at h
  cases hf : s.fault
  · cases hd : decode w with
    | illegal => simp only [hf, hd] at h; cases h; simp
    | command i => simp only [hf, hd] at h; exact .inr (.inr ⟨rfl, i, rfl, h⟩)
  · simp only [hf] at h; cases h; simp

theorem accept_of_fault {w : Word} {s : State} (hf : s.fault = true) : accept w s = .next s := by
  simp [accept, hf]

theorem accept_illegal {w : Word} {s : State} (hf : s.fault = false) (hd : decode w = .illegal) :
    accept w s = .next (raiseFault .illegal w s) := by
  simp [accept, hf, hd]

theorem accept_command {w : Word} {s : State} {i : Instr} (hf : s.fault = false) (hd : decode w = .command i) :
    accept w s = exec i s := by
  simp [accept, hf, hd]

/-- Every accepted word has a next state (R87). -/
theorem accept_next (w : Word) (s : State) : ∃ t, accept w s = .next t := by
  cases hf : s.fault
  · cases hd : decode w with
    | illegal => exact ⟨_, accept_illegal hf hd⟩
    | command i =>
      obtain ⟨t, ht, -⟩ := exec_shape i s
      exact ⟨t, by rw [accept_command hf hd, ht]⟩
  · exact ⟨s, accept_of_fault hf⟩

/-- The fall of RST is the reset event (R105). -/
theorem step_fall {s : State} {rest : List HostMove} (h : s.host = .rst false :: rest) (hr : s.rst = true) :
    step s = .next (resetEvent (setHost rest s)) := by
  rw [step_rst h]
  simp [driveRst, hr]

/-- RST driven otherwise moves the pin only (log entry 8). -/
theorem step_rst_pin {s : State} {level : Bool} {rest : List HostMove} (h : s.host = .rst level :: rest)
    (hlevel : s.rst = false ∨ level = true) : step s = .next (setRst level (setHost rest s)) := by
  rw [step_rst h]
  rcases hlevel with hr | rfl
  · simp [driveRst, hr]
  · simp [driveRst]

/-- A step stops only on a command presented while RST is high (R86, R96; log entry 3). -/
theorem step_fault {s : State} {r : Fault} (h : step s = .fault r) :
    s.rst = true ∧ ∃ w rest, s.host = .command w :: rest := by
  cases hh : s.host with
  | nil => rw [step_idle hh] at h; cases h
  | cons m rest =>
    cases m with
    | command w =>
      cases hr : s.rst with
      | true => simp
      | false =>
        obtain ⟨t, ht⟩ := accept_next w (setHost rest s)
        rw [step_command hh hr, ht] at h
        cases h
    | rst level => rw [step_rst hh] at h; cases h
    | cfgBypass level => rw [step_cfgBypass hh] at h; cases h
    | rdsel sel => rw [step_rdsel hh] at h; cases h

end Sys2Proof.Machine
end

section
/-! The invariant of the block: every update a step can make keeps it (10_state.md R18, R22, R24 to R26, R35, R36). -/

namespace Sys2Proof.Machine

theorem magnitude_toInt (r : Word) : (magnitude r).toInt = r.toNat := by
  rw [magnitude, BitVec.toInt_setWidth, Int.bmod_eq_of_le] <;> omega

/-- The mantissa of SPOW is the raw value, negated when the sign byte says so (R73, R76). -/
theorem signedMantissa_toInt (r : Word) (f : Byte) :
    (signedMantissa r f).toInt = if negates r f then -(r.toNat : Int) else (r.toNat : Int) := by
  unfold signedMantissa
  split
  · rw [BitVec.toInt_neg, magnitude_toInt, Int.bmod_eq_of_le] <;> omega
  · exact magnitude_toInt r

theorem magnitude_inRange (r : Word) :
    -(2 ^ 32 - 1) ≤ (magnitude r).toInt ∧ (magnitude r).toInt ≤ 2 ^ 32 - 1 := by
  rw [magnitude_toInt]
  omega

theorem signedMantissa_inRange (r : Word) (f : Byte) :
    -(2 ^ 32 - 1) ≤ (signedMantissa r f).toInt ∧ (signedMantissa r f).toInt ≤ 2 ^ 32 - 1 := by
  rw [signedMantissa_toInt]
  split <;> omega

/-- The code of a fault is 1, 2 or 3 (R89). -/
theorem FaultCode.code_cases (c : FaultCode) : c.code = 1#4 ∨ c.code = 2#4 ∨ c.code = 3#4 := by
  cases c <;> simp [FaultCode.code]

theorem inv_resetWith (cfg : Bool) : Inv (State.resetWith cfg) := by
  cases cfg <;> decide

theorem inv_raiseFault {s : State} (h : Inv s) (c : FaultCode) (w : Word) : Inv (raiseFault c w s) := by
  obtain ⟨hcanon, hfilled, hidle, hflags, hscale, hrange, -⟩ := h
  exact ⟨hcanon, hfilled, hidle, hflags, hscale, hrange, by simp, fun _ => c.code_cases⟩

theorem flagsSound_clearResult (s : State) : FlagsSound (clearResult s) := ⟨fun _ => rfl, nofun, nofun⟩

/-- With a new buffer nothing is readable, so the RAM is filled whatever it holds (R37). -/
theorem ramFilled_startBuffer (s : State) : RamFilled (clearResult (startBuffer s)) :=
  fun a (ha : a < 0) => absurd ha (Nat.not_lt_zero a)

theorem inv_startBuffer {s : State} (h : Inv s) : Inv (clearResult (startBuffer s)) := by
  obtain ⟨hcanon, -, -, -, hscale, hrange, hrecord⟩ := h
  exact ⟨hcanon, ramFilled_startBuffer s, fun _ => rfl, flagsSound_clearResult _, hscale, hrange, hrecord⟩

theorem ramFilled_absorb {s : State} (h : RamFilled s) (b : Byte) : RamFilled (absorb b s) := by
  intro a ha
  simp only [readableLen, absorb_cnt, cntAfterPush_toNat, Config.ramSize] at ha
  rw [absorb_ram, ramAfterPush_get]
  split
  · simp
  · rename_i hnew
    refine h a ?_
    simp only [readableLen, Config.ramSize] at hnew ⊢
    omega

theorem crcIdle_absorb {s : State} (h : CrcIdle s) (b : Byte) : CrcIdle (absorb b s) := by
  intro hcnt
  simp only [absorb_cnt, cntAfterPush_toNat, Config.minBuffer] at hcnt
  have hfew : ¬Config.minBuffer ≤ s.cnt.toNat := by simp only [Config.minBuffer]; omega
  rw [absorb_crc, crcAfterPush, if_neg hfew]
  exact h (not_le.mp hfew)

theorem inv_absorb {s : State} (h : Inv s) (b : Byte) : Inv (clearResult (absorb b s)) := by
  obtain ⟨hcanon, hfilled, hidle, -, hscale, hrange, hrecord⟩ := h
  exact ⟨ramAfterPush_wf b hcanon, ramFilled_absorb hfilled b, crcIdle_absorb hidle b,
    flagsSound_clearResult _, hscale, hrange, hrecord⟩

/-- CHECK without a fault leaves the comparison it made, or 1 under bypass (R66). -/
theorem inv_setResult {s : State} (h : Inv s) (hlong : s.bypass = false → 2 ≤ s.cnt.toNat) :
    Inv (setResult (s.bypass || trailerMatches s) s) := by
  obtain ⟨hcanon, hfilled, hidle, -, hscale, hrange, hrecord⟩ := h
  refine ⟨hcanon, hfilled, hidle, ⟨by simp, ?_, ?_⟩, hscale, hrange, hrecord⟩
  · rintro - (hb : s.bypass = true)
    simp [hb]
  · rintro - (hb : s.bypass = false)
    exact ⟨hlong hb, by simp [hb]; rfl⟩

theorem inv_setScaled {s : State} (h : Inv s) (r : Word) {n : BitVec 64} {sc : BitVec 2}
    (hn : -(2 ^ 32 - 1) ≤ n.toInt ∧ n.toInt ≤ 2 ^ 32 - 1) (hsc : sc ≠ 3#2) : Inv (setScaled r n sc s) := by
  obtain ⟨hcanon, hfilled, hidle, hflags, -, -, hrecord⟩ := h
  exact ⟨hcanon, hfilled, hidle, hflags, hsc, hn, hrecord⟩

/-- A well-formed command keeps the invariant; the scale code 3 of an ill-formed one would break it (log entry 11). -/
theorem exec_inv {i : Instr} {s t : State} (hi : i.wellFormed = true) (hs : Inv s) (h : exec i s = .next t) : Inv t := by
  cases i with
  | nop => rw [exec_nop_eq h]; exact hs
  | crcinit => rw [exec_crcinit_eq h]; exact inv_startBuffer hs
  | push b => rw [exec_push_eq h]; exact inv_absorb hs b
  | check =>
    rcases exec_check_cases h with ⟨-, -, rfl⟩ | ⟨hlong, rfl⟩
    · exact inv_raiseFault hs _ _
    · exact inv_setResult hs hlong
  | decu32 off =>
    rcases exec_decu32_cases h with ⟨-, rfl⟩ | ⟨r, -, rfl⟩
    · exact inv_raiseFault hs _ _
    · exact hs
  | scale off sc =>
    have hsc : sc ≠ 3#2 := by
      simp only [Instr.wellFormed, scOk, Bool.and_eq_true, bne_iff_ne] at hi
      exact hi.2
    rcases exec_scale_cases h with ⟨-, rfl⟩ | ⟨r, -, rfl⟩
    · exact inv_raiseFault hs _ _
    · exact inv_setScaled hs r (magnitude_inRange r) hsc
  | spow off soff sc =>
    have hsc : sc ≠ 3#2 := by
      simp only [Instr.wellFormed, scOk, Bool.and_eq_true, bne_iff_ne] at hi
      exact hi.2
    rcases exec_spow_cases h with ⟨-, rfl⟩ | ⟨r, f, -, -, rfl⟩
    · exact inv_raiseFault hs _ _
    · exact inv_setScaled hs r (signedMantissa_inRange r f) hsc

theorem accept_inv {w : Word} {s t : State} (hs : Inv s) (h : accept w s = .next t) : Inv t := by
  rcases accept_cases h with ⟨-, rfl⟩ | ⟨-, -, rfl⟩ | ⟨-, i, hd, hexec⟩
  · exact hs
  · exact inv_raiseFault hs _ _
  · exact exec_inv (wellFormed_of_decode hd) hs hexec

/-- Settles O50, by the cases of a step: the invariant looks at no pin and not at the host's moves. -/
theorem invariantKeptByEveryStep : Obligations.InvariantKeptByEveryStep := by
  intro s t hs h
  rcases step_cases h with ⟨-, rfl⟩ | ⟨w, rest, -, -, haccept⟩ | ⟨rest, -, -, rfl⟩ | ⟨level, rest, -, -, rfl⟩ |
    ⟨level, rest, -, rfl⟩ | ⟨sel, rest, -, rfl⟩
  · exact hs
  · exact accept_inv (s := setHost rest s) hs haccept
  · exact inv_resetWith s.cfgBypass
  · exact hs
  · exact hs
  · exact hs

end Sys2Proof.Machine
end

section
/-! SUPPORT. Stale bytes: a block whose delay line and RAM hold other bytes where nothing may read them answers every command
with a state that again differs only so (10_state.md R20, R31; 20_memory.md R37). -/

namespace Sys2Proof.Machine

/-- `s` with other bytes in the delay line and the RAM. -/
def withBytes (d0 d1 : Byte) (m : Memory) (s : State) : State := { s with dl0 := d0, dl1 := d1, ram := m }

@[simp] theorem withBytes_bypass (d0 d1 : Byte) (m : Memory) (s : State) : (withBytes d0 d1 m s).bypass = s.bypass := rfl

/-- The read port shows neither the delay line nor the RAM (R29). -/
theorem readPort_withBytes (sel : BitVec 3) (d0 d1 : Byte) (m : Memory) (s : State) :
    readPort sel (withBytes d0 d1 m s) = readPort sel s := rfl

theorem SameButStale.exists_withBytes {s t : State} (h : SameButStale s t) : ∃ d0 d1 m, t = withBytes d0 d1 m s :=
  ⟨t.dl0, t.dl1, t.ram, h.1⟩

theorem SameButStale.refl (s : State) : SameButStale s s := ⟨rfl, fun _ => rfl, fun _ => rfl, fun _ _ => rfl⟩

/-- CHECK compares the trailer only when both bytes of the delay line are current (R20, R66). -/
theorem trailerMatches_of_sameButStale {s t : State} (h : SameButStale s t) (hlong : 2 ≤ s.cnt.toNat) :
    trailerMatches t = trailerMatches s := by
  obtain ⟨heq, hd1, hd0, -⟩ := h
  have hcrc : t.crc = s.crc := by rw [heq]
  simp [trailerMatches, trailer, hcrc, hd1 (by omega), hd0 hlong]

/-- PUSH folds the older byte only when it is current (R20, R65). -/
theorem crcAfterPush_of_sameButStale {s t : State} (h : SameButStale s t) : crcAfterPush t = crcAfterPush s := by
  obtain ⟨heq, -, hd0, -⟩ := h
  have hcrc : t.crc = s.crc := by rw [heq]
  have hcnt : t.cnt = s.cnt := by rw [heq]
  unfold crcAfterPush
  rw [hcrc, hcnt]
  split
  · rename_i hlong; rw [hd0 hlong]
  · rfl

/-- PUSH makes readable only the byte it stores (R36). -/
theorem ramAfterPush_of_sameButStale {s t : State} (h : SameButStale s t) (b : Byte) {a : Nat}
    (ha : a < readableLen (absorb b s)) : (ramAfterPush t b).get a = (ramAfterPush s b).get a := by
  obtain ⟨heq, -, -, hram⟩ := h
  have hcnt : t.cnt = s.cnt := by rw [heq]
  rw [ramAfterPush_get, ramAfterPush_get, hcnt]
  simp only [readableLen, absorb_cnt, cntAfterPush_toNat, Config.ramSize] at ha hram ⊢
  split
  · rfl
  · exact hram a (by omega)

theorem sameButStale_absorb {s t : State} (h : SameButStale s t) (b : Byte) :
    SameButStale (clearResult (absorb b s)) (clearResult (absorb b t)) := by
  have hcrc := crcAfterPush_of_sameButStale h
  have hram := fun a => ramAfterPush_of_sameButStale h b (a := a)
  obtain ⟨d0, d1, m, rfl⟩ := h.exists_withBytes
  obtain ⟨-, hd1, -, -⟩ := h
  refine ⟨?_, fun _ => rfl, fun hlong => hd1 ?_, hram⟩
  · simp only [clearResult, absorb, hcrc]
    rfl
  · simp only [clearResult_cnt, absorb_cnt, cntAfterPush_toNat, Config.minBuffer] at hlong
    omega

theorem exec_scaler_sameButStale {i : Instr} (hi : IsScaler i) {s s' t : State} (h : SameButStale s t)
    (hs : exec i s = .next s') : ∃ t', exec i t = .next t' ∧ SameButStale s' t' := by
  obtain ⟨d0, d1, m, rfl⟩ := h.exists_withBytes
  obtain ⟨-, hd1, hd0, hram⟩ := h
  obtain ⟨upd, hupd, hnext, hnext'⟩ := exec_scaler_congr hi (s := s) (s' := withBytes d0 d1 m s) rfl hram
  rw [hnext] at hs
  cases hs
  refine ⟨_, hnext', ?_⟩
  rcases hupd with rfl | ⟨off, r, -, rfl⟩ | ⟨r, n, sc, rfl⟩ <;> exact ⟨rfl, hd1, hd0, hram⟩

theorem exec_sameButStale {i : Instr} {s s' t : State} (h : SameButStale s t) (hs : exec i s = .next s') :
    ∃ t', exec i t = .next t' ∧ SameButStale s' t' := by
  have htrailer := trailerMatches_of_sameButStale h
  have hpush := sameButStale_absorb h
  have hscaler := fun hi : IsScaler i => exec_scaler_sameButStale hi h hs
  obtain ⟨d0, d1, m, rfl⟩ := h.exists_withBytes
  obtain ⟨-, hcurrent⟩ := h
  cases i with
  | nop => cases hs; exact ⟨_, rfl, rfl, hcurrent⟩
  | crcinit => cases hs; exact ⟨_, rfl, rfl, nofun, nofun, nofun⟩
  | push b => cases hs; exact ⟨_, rfl, hpush b⟩
  | check =>
    rcases exec_check_cases hs with ⟨hb, hc, rfl⟩ | ⟨hlong, rfl⟩
    · exact ⟨_, exec_check_short (s := withBytes d0 d1 m s) hb hc, rfl, hcurrent⟩
    · have hresult : (s.bypass || trailerMatches (withBytes d0 d1 m s)) = (s.bypass || trailerMatches s) := by
        cases hb : s.bypass
        · rw [htrailer (hlong hb)]
        · rfl
      refine ⟨_, exec_check_result (s := withBytes d0 d1 m s) hlong, ?_⟩
      rw [withBytes_bypass, hresult]
      exact ⟨rfl, hcurrent⟩
  | decu32 off => exact hscaler (.inl ⟨off, rfl⟩)
  | scale off sc => exact hscaler (.inr (.inl ⟨off, sc, rfl⟩))
  | spow off soff sc => exact hscaler (.inr (.inr ⟨off, soff, sc, rfl⟩))

theorem accept_sameButStale {w : Word} {s s' t : State} (h : SameButStale s t) (hs : accept w s = .next s') :
    ∃ t', accept w t = .next t' ∧ SameButStale s' t' := by
  have hfault : t.fault = s.fault := by rw [h.1]
  rcases accept_cases hs with ⟨hf, rfl⟩ | ⟨hf, hd, rfl⟩ | ⟨hf, i, hd, hexec⟩
  · exact ⟨t, accept_of_fault (hfault.trans hf), h⟩
  · refine ⟨_, accept_illegal (hfault.trans hf) hd, ?_⟩
    obtain ⟨d0, d1, m, rfl⟩ := h.exists_withBytes
    exact ⟨rfl, h.2⟩
  · rw [accept_command (hfault.trans hf) hd]
    exact exec_sameButStale h hexec

theorem step_sameButStale {s s' t : State} (h : SameButStale s t) (hs : step s = .next s') :
    ∃ t', step t = .next t' ∧ SameButStale s' t' := by
  obtain ⟨d0, d1, m, rfl⟩ := h.exists_withBytes
  obtain ⟨-, hcurrent⟩ := h
  rcases step_cases hs with ⟨hh, rfl⟩ | ⟨w, rest, hh, hr, haccept⟩ | ⟨rest, hh, hr, rfl⟩ |
    ⟨level, rest, hh, hlevel, rfl⟩ | ⟨level, rest, hh, rfl⟩ | ⟨sel, rest, hh, rfl⟩
  · exact ⟨_, step_idle (s := withBytes d0 d1 m _) hh, rfl, hcurrent⟩
  · rw [step_command (s := withBytes d0 d1 m s) hh hr]
    exact accept_sameButStale (s := setHost rest s) ⟨rfl, hcurrent⟩ haccept
  · exact ⟨_, step_fall (s := withBytes d0 d1 m s) hh hr, SameButStale.refl _⟩
  · exact ⟨_, step_rst_pin (s := withBytes d0 d1 m s) hh hlevel, rfl, hcurrent⟩
  · exact ⟨_, step_cfgBypass (s := withBytes d0 d1 m s) hh, rfl, hcurrent⟩
  · exact ⟨_, step_rdsel (s := withBytes d0 d1 m s) hh, rfl, hcurrent⟩

/-- Settles O51: the read port shows no stale byte, no command reads one, and a stop depends on RST and the host alone. -/
theorem staleBytesAreUnobservable : Obligations.StaleBytesAreUnobservable := by
  intro s t h
  refine ⟨fun sel => ?_, fun s' hs => step_sameButStale h hs, fun r hs => ?_⟩
  · obtain ⟨d0, d1, m, rfl⟩ := h.exists_withBytes
    exact readPort_withBytes sel d0 d1 m s
  · obtain ⟨hr, w, rest, hh⟩ := step_fault hs
    obtain ⟨d0, d1, m, rfl⟩ := h.exists_withBytes
    cases r
    exact step_command_in_reset (s := withBytes d0 d1 m s) hh hr

end Sys2Proof.Machine
end

section
/-! SUPPORT. What the host reads: STATUS bit by bit, and the two words of OUTN (10_state.md R28, R29). -/

namespace Sys2Proof.Machine

theorem fill_toNat (s : State) : (fill s).toNat = min s.cnt.toNat 2 := by
  simp only [fill, BitVec.toNat_ofNat]
  omega

/-- STATUS, bit by bit (R28). -/
theorem status_getLsbD (s : State) (k : Nat) :
    (status s).getLsbD k =
      if k = 0 then s.mvalid else if k = 1 then s.matchFlag else if k = 2 then s.bypass else if k = 3 then s.fault
      else if k < 8 then s.fcode.getLsbD (k - 4) else if k < 10 then (fill s).getLsbD (k - 8)
      else if k < 12 then s.outs.getLsbD (k - 10) else false := by
  unfold status
  rw [BitVec.getLsbD_append, BitVec.getLsbD_append, BitVec.getLsbD_append, BitVec.getLsbD_append, BitVec.getLsbD_append,
    BitVec.getLsbD_append, BitVec.getLsbD_append]
  match k with
  | 0 => simp
  | 1 => simp
  | 2 => simp
  | 3 => simp
  | k + 4 =>
    have h8 : k + 4 < 8 ↔ k < 4 := by omega
    have h10 : k + 4 < 10 ↔ k ≤ 5 := by omega
    have h12 : k + 4 < 12 ↔ k ≤ 7 := by omega
    simp [Nat.sub_sub, h8, h10, h12]

theorem status_bypass (s : State) : (status s).getLsbD 2 = s.bypass := status_getLsbD s 2

theorem status_fcode (s : State) : (status s).extractLsb' 4 4 = s.fcode := by
  ext k hk
  rw [BitVec.getElem_extractLsb', status_getLsbD]
  interval_cases k <;> rfl

theorem status_fill (s : State) : (status s).extractLsb' 8 2 = fill s := by
  ext k hk
  rw [BitVec.getElem_extractLsb', status_getLsbD]
  interval_cases k <;> rfl

theorem status_outs (s : State) : (status s).extractLsb' 10 2 = s.outs := by
  ext k hk
  rw [BitVec.getElem_extractLsb', status_getLsbD]
  interval_cases k <;> rfl

theorem status_reserved (s : State) : (status s).extractLsb' 12 20 = 0#20 := by
  ext k hk
  rw [BitVec.getElem_extractLsb', status_getLsbD]
  interval_cases k <;> simp

theorem status_resetWith (cfg : Bool) : status (State.resetWith cfg) = if cfg then 4#32 else 0#32 := by
  cases cfg <;> decide

theorem readPort_outn (s : State) : readPort 5#3 s ++ readPort 4#3 s = s.outn := by
  have hjoin : s.outn.extractLsb' (0 + 32) 32 ++ s.outn.extractLsb' 0 32 = s.outn.extractLsb' 0 (32 + 32) :=
    BitVec.extractLsb'_append_extractLsb'_eq_extractLsb' rfl
  exact hjoin.trans BitVec.extractLsb'_eq_self

/-- Settles O19: the bits of STATUS one field at a time; the invariant excludes the codes never shown. -/
theorem statusFields : Obligations.StatusFields := by
  refine ⟨fun s => ⟨?_, ?_, status_bypass s, ?_, status_fcode s, ?_, status_outs s, status_reserved s⟩, fun s hs => ?_,
    status_resetWith⟩
  · exact status_getLsbD s 0
  · exact status_getLsbD s 1
  · exact status_getLsbD s 3
  · rw [status_fill, fill_toNat]
  · obtain ⟨-, -, -, -, hscale, -, hsound, hcodes⟩ := hs
    rw [status_fcode, status_fill, status_outs]
    refine ⟨?_, fun hfill => ?_, hscale⟩
    · cases hf : s.fault
      · simp [(hsound hf).1]
      · rcases hcodes hf with hcode | hcode | hcode <;> simp [hcode]
    · have hmin := fill_toNat s
      simp only [hfill, BitVec.toNat_ofNat] at hmin
      omega

/-- Settles O20: each select by its own branch; the two words of OUTN join to it. -/
theorem readPortMap : Obligations.ReadPortMap := by
  intro s
  refine ⟨rfl, ?_, ?_, rfl, readPort_outn s, rfl, rfl, rfl⟩
  · exact BitVec.toNat_setWidth_of_le (show 16 ≤ 32 by decide)
  · exact BitVec.toNat_setWidth_of_le (show 16 ≤ 32 by decide)

end Sys2Proof.Machine
end

section
/-! The fault record, BYPASS and the pins: which steps write them (10_state.md R26, R27, R30, R33). -/

namespace Sys2Proof.Machine

theorem cmd_of_command {s : State} {w : Word} {rest : List HostMove} (h : s.host = .command w :: rest) :
    cmd s = some w := by
  simp [cmd, h]

theorem cmdValid_of_command {s : State} {w : Word} {rest : List HostMove} (h : s.host = .command w :: rest) :
    cmdValid s = true := by
  simp [cmdValid, h]

/-- Settles O12: of the steps, only an accepted word takes a fault, and it records itself; only the fall of RST clears. -/
theorem faultRecordWriters : Obligations.FaultRecordWriters := by
  intro s t h
  refine ⟨?_, rfl, rfl⟩
  rcases step_cases h with ⟨-, rfl⟩ | ⟨w, rest, hh, -, haccept⟩ | ⟨rest, hh, hr, rfl⟩ | ⟨level, rest, -, -, rfl⟩ |
    ⟨level, rest, -, rfl⟩ | ⟨sel, rest, -, rfl⟩
  · exact .inl ⟨rfl, rfl, rfl⟩
  · rw [cmd_of_command hh]
    rcases accept_cases haccept with ⟨-, rfl⟩ | ⟨hf, -, rfl⟩ | ⟨hf, i, hd, hexec⟩
    · exact .inl ⟨rfl, rfl, rfl⟩
    · exact .inr (.inl ⟨hf, rfl, .inl rfl, rfl⟩)
    · rcases exec_fault_record hexec with hkept | ⟨hfault, hcode, hcmd⟩
      · exact .inl hkept
      · exact .inr (.inl ⟨hf, hfault, .inr hcode, by rw [hcmd, encode_of_decode hd]⟩)
  · exact .inr (.inr ⟨hr, ⟨rest, hh⟩, rfl, rfl, rfl⟩)
  all_goals exact .inl ⟨rfl, rfl, rfl⟩

theorem accept_bypass {w : Word} {s t : State} (h : accept w s = .next t) : t.bypass = s.bypass := by
  rcases accept_cases h with ⟨-, rfl⟩ | ⟨-, -, rfl⟩ | ⟨-, i, -, hexec⟩
  · rfl
  · rfl
  · exact exec_bypass hexec

theorem step_bypass {s t : State} (h : step s = .next t) :
    t.bypass = if s.rst = true ∧ s.host.head? = some (.rst false) then s.cfgBypass else s.bypass := by
  rcases step_cases h with ⟨hh, rfl⟩ | ⟨w, rest, hh, -, haccept⟩ | ⟨rest, hh, hr, rfl⟩ | ⟨level, rest, hh, hlevel, rfl⟩ |
    ⟨level, rest, hh, rfl⟩ | ⟨sel, rest, hh, rfl⟩
  · simp [hh]
  · simp [hh, accept_bypass haccept]
  · simp [hh, hr]
  · rcases hlevel with hr | rfl
    · simp [hr]
    · simp [hh]
  · simp [hh]
  · simp [hh]

/-- Settles O15: the step's cases give BYPASS, and CHECK under bypass never takes SHORT. -/
theorem bypassChangesOnlyAtReset : Obligations.BypassChangesOnlyAtReset := by
  refine ⟨fun s t h => step_bypass h, fun s level rest hh => step_cfgBypass hh, status_bypass, fun s hb => ?_⟩
  have hcheck := exec_check_result (s := s) (by simp [hb])
  rwa [show (s.bypass || trailerMatches s) = true by simp [hb]] at hcheck

/-- Settles O22, by the cases of a step that neither takes a command nor drives RST. -/
theorem hostWritesOnlyByCommands : Obligations.HostWritesOnlyByCommands := by
  intro s t hvalid hrst h
  rcases step_cases h with ⟨hh, rfl⟩ | ⟨w, rest, hh, -, -⟩ | ⟨rest, hh, -, -⟩ | ⟨level, rest, hh, -, -⟩ |
    ⟨level, rest, hh, rfl⟩ | ⟨sel, rest, hh, rfl⟩
  · rw [hh, List.tail_nil, ← hh]
  · rw [cmdValid_of_command hh] at hvalid
    cases hvalid
  · exact absurd hh (hrst _ _)
  · exact absurd hh (hrst _ _)
  · rw [hh]; rfl
  · rw [hh]; rfl

/-- Settles O21: a read is the move of the pin alone, so two reads in a row show one state. -/
theorem readsHaveNoSideEffect : Obligations.ReadsHaveNoSideEffect := by
  intro s sel rest hh
  have hstep := step_rdsel hh
  refine ⟨hstep, fun t ht => ?_⟩
  obtain rfl : setRdsel sel (setHost rest s) = t := by rw [hstep] at ht; cases ht; rfl
  refine ⟨rfl, fun rest' u hh' hu => ?_, rfl, status_reserved _⟩
  rw [step_rdsel hh'] at hu
  cases hu
  rfl

end Sys2Proof.Machine
end

section
/-! The state after reset (10_state.md R31; 70_reset_and_hazards.md R105). -/

namespace Sys2Proof.Machine

/-- Settles O13: CNT = 0 makes every RAM byte unreadable and the delay line stale. -/
theorem resetValues : Obligations.ResetValues := by
  intro cfg
  refine ⟨rfl, rfl, rfl, rfl, rfl, rfl, rfl, rfl, rfl, rfl, rfl, fun a => memRead_above (Nat.zero_le a), ?_⟩
  intro d0 d1 r
  exact ⟨rfl, nofun, nofun, nofun⟩

/-- The empty buffer is what the state after reset holds (R67, R108). -/
theorem holdsBuffer_resetWith (cfg : Bool) : HoldsBuffer (State.resetWith cfg) [] :=
  ⟨⟨rfl, fun _ => nofun⟩, rfl, nofun, nofun⟩

/-- Settles O49 from the three facts about the state after reset. -/
theorem invariantAtReset : Obligations.InvariantAtReset :=
  fun cfg => ⟨inv_resetWith cfg, holdsBuffer_resetWith cfg, rfl⟩

end Sys2Proof.Machine
end

section
/-! What each command reads and writes (10_state.md R19, R22, R32). -/

namespace Sys2Proof.Machine

/-- A command that takes a fault writes the fault record alone (R91). -/
theorem exec_fault_writes {i : Instr} {s t : State} (hf : s.fault = false) (h : exec i s = .next t)
    (ht : t.fault = true) : t = { s with fault := t.fault, fcode := t.fcode, fcmd := t.fcmd } := by
  have hno : s.fault ≠ true := by simp [hf]
  obtain ⟨u, hu, hshape⟩ := exec_shape i s
  obtain rfl : u = t := by rw [hu] at h; cases h; rfl
  rcases hshape with rfl | rfl | rfl | rfl | ⟨b, rfl⟩ | ⟨m, rfl⟩ | ⟨r, rfl⟩ | ⟨r, n, sc, rfl⟩
  · rfl
  · rfl
  all_goals exact absurd ht hno

theorem crcAfterPush_congr {s s' : State} (hcrc : s.crc = s'.crc) (hcnt : s.cnt = s'.cnt) (hd0 : s.dl0 = s'.dl0) :
    crcAfterPush s = crcAfterPush s' := by
  simp only [crcAfterPush, hcrc, hcnt, hd0]

theorem trailerMatches_congr {s s' : State} (hcrc : s.crc = s'.crc) (hd0 : s.dl0 = s'.dl0) (hd1 : s.dl1 = s'.dl1) :
    trailerMatches s = trailerMatches s' := by
  simp only [trailerMatches, trailer, hcrc, hd0, hd1]

/-- The byte PUSH stores at index CNT does not depend on the RAM it is stored in. -/
theorem ramAfterPush_get_cnt {s : State} (b : Byte) (h : s.cnt.toNat < 64) :
    (ramAfterPush s b).get s.cnt.toNat = some b := by
  rw [ramAfterPush_get, if_pos ⟨h, rfl⟩]

theorem exec_push_congr {b : Byte} {s s' t t' : State} (h : exec (.push b) s = .next t)
    (h' : exec (.push b) s' = .next t') (hcrc : s.crc = s'.crc) (hcnt : s.cnt = s'.cnt) (hd0 : s.dl0 = s'.dl0)
    (hd1 : s.dl1 = s'.dl1) :
    t.crc = t'.crc ∧ t.cnt = t'.cnt ∧ t.dl0 = t'.dl0 ∧ t.dl1 = t'.dl1 ∧ t.mvalid = t'.mvalid ∧
    t.matchFlag = t'.matchFlag ∧ (s.cnt.toNat < 64 → t.ram.get s.cnt.toNat = t'.ram.get s.cnt.toNat) := by
  rw [exec_push_eq h, exec_push_eq h']
  refine ⟨crcAfterPush_congr hcrc hcnt hd0, congrArg cntAfterPush hcnt, hd1, rfl, rfl, rfl, fun hlt => ?_⟩
  have hstored := ramAfterPush_get_cnt (s := s') b (hcnt ▸ hlt)
  rw [← hcnt] at hstored
  exact (ramAfterPush_get_cnt b hlt).trans hstored.symm

theorem exec_check_congr {s s' t t' : State} (hrecord : s.fault = s'.fault) (h : exec .check s = .next t)
    (h' : exec .check s' = .next t') (hcrc : s.crc = s'.crc) (hcnt : s.cnt = s'.cnt) (hd0 : s.dl0 = s'.dl0)
    (hd1 : s.dl1 = s'.dl1) (hbypass : s.bypass = s'.bypass) :
    t.fault = t'.fault ∧ (t.fault = false → t.mvalid = t'.mvalid ∧ t.matchFlag = t'.matchFlag) := by
  rcases exec_check_cases h with ⟨hb, hc, rfl⟩ | ⟨hlong, rfl⟩
  · rw [exec_check_short (hbypass ▸ hb) (hcnt ▸ hc)] at h'
    cases h'
    exact ⟨rfl, nofun⟩
  · rw [hbypass, hcnt] at hlong
    rw [exec_check_result hlong] at h'
    cases h'
    refine ⟨hrecord, fun _ => ⟨rfl, ?_⟩⟩
    rw [setResult_matchFlag, setResult_matchFlag, hbypass, trailerMatches_congr hcrc hd0 hd1]

/-- The scaler commands write what they read from the RAM: RAW, and all but DECU32 the result registers too. -/
theorem exec_scaler_writes_congr {i : Instr} (hi : IsScaler i) {s s' t t' : State} (hrecord : s.fault = s'.fault)
    (h : exec i s = .next t) (h' : exec i s' = .next t') (hcnt : s.cnt = s'.cnt)
    (hram : ∀ a, s.ram.get a = s'.ram.get a) :
    t.fault = t'.fault ∧ (t.fault = false →
      t.raw = t'.raw ∧ ((∀ off, i ≠ .decu32 off) → t.outn = t'.outn ∧ t.outs = t'.outs)) := by
  obtain ⟨upd, hupd, hnext, hnext'⟩ := exec_scaler_congr hi hcnt.symm fun a _ => (hram a).symm
  rw [hnext] at h
  rw [hnext'] at h'
  cases h
  cases h'
  rcases hupd with rfl | ⟨off, r, rfl, rfl⟩ | ⟨r, n, sc, rfl⟩
  · exact ⟨rfl, nofun⟩
  · exact ⟨hrecord, fun _ => ⟨rfl, fun hne => absurd rfl (hne off)⟩⟩
  · exact ⟨hrecord, fun _ => ⟨rfl, fun _ => ⟨rfl, rfl⟩⟩⟩

/-- Settles O23: the w cells by what each command answers, the r cells by the `congr` lemma of each command. -/
theorem accessMatrix : Obligations.AccessMatrix := by
  refine ⟨fun i s t hf h => ⟨exec_fault_writes hf h, fun ht => ?_⟩, fun i s s' t t' hf hf' h h' => ?_⟩
  · cases i with
    | nop => exact exec_nop_eq h
    | crcinit => obtain rfl := exec_crcinit_eq h; rfl
    | push b => obtain rfl := exec_push_eq h; rfl
    | check =>
      rcases exec_check_cases h with ⟨-, -, rfl⟩ | ⟨-, rfl⟩
      · cases ht
      · rfl
    | decu32 off =>
      rcases exec_decu32_cases h with ⟨-, rfl⟩ | ⟨r, -, rfl⟩
      · cases ht
      · rfl
    | scale off sc =>
      rcases exec_scale_cases h with ⟨-, rfl⟩ | ⟨r, -, rfl⟩
      · cases ht
      · rfl
    | spow off soff sc =>
      rcases exec_spow_cases h with ⟨-, rfl⟩ | ⟨r, f, -, -, rfl⟩
      · cases ht
      · rfl
  · have hrecord : s.fault = s'.fault := hf.trans hf'.symm
    cases i with
    | nop => trivial
    | crcinit => rw [exec_crcinit_eq h, exec_crcinit_eq h']; exact ⟨rfl, rfl, rfl, rfl⟩
    | push b => exact exec_push_congr h h'
    | check => exact exec_check_congr hrecord h h'
    | decu32 off =>
      intro hcnt hram
      obtain ⟨hfault, hwrites⟩ := exec_scaler_writes_congr (.inl ⟨off, rfl⟩) hrecord h h' hcnt hram
      exact ⟨hfault, fun ht => (hwrites ht).1⟩
    | scale off sc =>
      intro hcnt hram
      obtain ⟨hfault, hwrites⟩ := exec_scaler_writes_congr (.inr (.inl ⟨off, sc, rfl⟩)) hrecord h h' hcnt hram
      exact ⟨hfault, fun ht => ⟨(hwrites ht).1, (hwrites ht).2 nofun⟩⟩
    | spow off soff sc =>
      intro hcnt hram
      obtain ⟨hfault, hwrites⟩ := exec_scaler_writes_congr (.inr (.inr ⟨off, soff, sc, rfl⟩)) hrecord h h' hcnt hram
      exact ⟨hfault, fun ht => ⟨(hwrites ht).1, (hwrites ht).2 nofun⟩⟩

theorem exec_scaler_flags {i : Instr} {s t : State} (hi : IsScaler i) (h : exec i s = .next t) :
    t.mvalid = s.mvalid ∧ t.matchFlag = s.matchFlag := by
  obtain ⟨upd, hupd, rfl⟩ := exec_scaler_update hi h
  rcases hupd with rfl | ⟨off, r, -, rfl⟩ | ⟨r, n, sc, rfl⟩ <;> exact ⟨rfl, rfl⟩

/-- The scaler commands do the same whatever the flags hold. -/
theorem exec_scaler_setFlags {i : Instr} {s t : State} (hi : IsScaler i) (h : exec i s = .next t) (v m : Bool) :
    exec i { s with mvalid := v, matchFlag := m } = .next { t with mvalid := v, matchFlag := m } := by
  obtain ⟨upd, hupd, hnext, hnext'⟩ :=
    exec_scaler_congr hi (s := s) (s' := { s with mvalid := v, matchFlag := m }) rfl fun _ _ => rfl
  rw [hnext] at h
  cases h
  rw [hnext']
  rcases hupd with rfl | ⟨off, r, -, rfl⟩ | ⟨r, n, sc, rfl⟩ <;> rfl

/-- Settles O24: command by command; the scaler commands through their common update. -/
theorem flagWriters : Obligations.FlagWriters := by
  refine ⟨fun i s t hf h ht => ?_, fun cfg => ⟨rfl, rfl⟩, fun s hs => ?_,
    fun i s t v m hi h => exec_scaler_setFlags hi h v m⟩
  · cases i with
    | nop => rw [exec_nop_eq h]; exact ⟨rfl, rfl⟩
    | crcinit => rw [exec_crcinit_eq h]; exact ⟨rfl, rfl⟩
    | push b => rw [exec_push_eq h]; exact ⟨rfl, rfl⟩
    | check =>
      rcases exec_check_cases h with ⟨-, -, rfl⟩ | ⟨-, rfl⟩
      · cases ht
      · exact ⟨rfl, by simp [trailerMatches, trailer]⟩
    | decu32 off => exact exec_scaler_flags (.inl ⟨off, rfl⟩) h
    | scale off sc => exact exec_scaler_flags (.inr (.inl ⟨off, sc, rfl⟩)) h
    | spow off soff sc => exact exec_scaler_flags (.inr (.inr ⟨off, soff, sc, rfl⟩)) h
  · obtain ⟨-, -, -, ⟨hclear, -⟩, -⟩ := hs
    exact hclear

theorem exec_scaler_cnt {i : Instr} {s t : State} (hi : IsScaler i) (h : exec i s = .next t) : t.cnt = s.cnt := by
  obtain ⟨upd, hupd, rfl⟩ := exec_scaler_update hi h
  rcases hupd with rfl | ⟨off, r, -, rfl⟩ | ⟨r, n, sc, rfl⟩ <;> rfl

theorem readPort_cnt_low (s : State) : (readPort 2#3 s).extractLsb' 0 16 = s.cnt := by
  ext k hk
  simp [readPort, hk, show k < 32 by omega]

theorem readPort_cnt_high (s : State) : (readPort 2#3 s).extractLsb' 16 16 = 0#16 := by
  ext k hk
  simp [readPort]

/-- Settles O25: only the updates of PUSH and CRCINIT name CNT. -/
theorem byteCounterSaturates : Obligations.ByteCounterSaturates := by
  refine ⟨fun i s t h => ?_, fun cfg => rfl, fun s => ⟨readPort_cnt_low s, readPort_cnt_high s⟩⟩
  cases i with
  | nop => rw [exec_nop_eq h]
  | crcinit => rw [exec_crcinit_eq h]; rfl
  | push b =>
    have hlt := s.cnt.isLt
    rw [exec_push_eq h, clearResult_cnt, absorb_cnt, cntAfterPush_toNat]
    show min (s.cnt.toNat + 1) 0xFFFF = if s.cnt.toNat = 0xFFFF then 0xFFFF else s.cnt.toNat + 1
    split <;> omega
  | check => rcases exec_check_cases h with ⟨-, -, rfl⟩ | ⟨-, rfl⟩ <;> rfl
  | decu32 off => exact exec_scaler_cnt (.inl ⟨off, rfl⟩) h
  | scale off sc => exact exec_scaler_cnt (.inr (.inl ⟨off, sc, rfl⟩)) h
  | spow off soff sc => exact exec_scaler_cnt (.inr (.inr ⟨off, soff, sc, rfl⟩)) h

/-- Settles O36; the one byte PUSH stores is that of `ramAfterPush_get`. -/
theorem crcUnitFrame : Obligations.CrcUnitFrame := by
  intro s t
  refine ⟨exec_nop_eq, fun h => ?_, fun b h => ?_, fun h => ?_⟩
  · rw [exec_crcinit_eq h]
    exact ⟨rfl, fun _ => rfl⟩
  · rw [exec_push_eq h]
    refine ⟨rfl, fun a ha => ?_⟩
    rw [clearResult_ram, absorb_ram, ramAfterPush_get, if_neg ha]
  · rcases exec_check_cases h with ⟨-, -, rfl⟩ | ⟨-, rfl⟩
    · exact ⟨.inr rfl, fun _ => rfl⟩
    · exact ⟨.inl rfl, fun _ => rfl⟩

/-- Settles O45: no update of a scaler command names the RAM. -/
theorem scalerFrame : Obligations.ScalerFrame := by
  intro s t off soff sc
  refine ⟨fun h => ?_, ?_⟩
  · rcases exec_decu32_cases h with ⟨-, rfl⟩ | ⟨r, -, rfl⟩
    · exact ⟨.inr rfl, fun _ => rfl⟩
    · exact ⟨.inl rfl, fun _ => rfl⟩
  · rintro (h | h)
    · rcases exec_scale_cases h with ⟨-, rfl⟩ | ⟨r, -, rfl⟩
      · exact ⟨.inr rfl, fun _ => rfl⟩
      · exact ⟨.inl rfl, fun _ => rfl⟩
    · rcases exec_spow_cases h with ⟨-, rfl⟩ | ⟨r, f, -, -, rfl⟩
      · exact ⟨.inr rfl, fun _ => rfl⟩
      · exact ⟨.inl rfl, fun _ => rfl⟩

end Sys2Proof.Machine
end

section
/-! The frame RAM as the scaler reads it: fields most significant byte first, and no byte at or above the readable length
(20_memory.md R36 to R38). -/

namespace Sys2Proof.Machine

/-- A byte moved up by at most 24 places loses no bit of a word. -/
theorem shiftLeft_byte_toNat (b : Byte) {k : Nat} (hk : k ≤ 24) : (b.setWidth 32 <<< k).toNat = b.toNat <<< k := by
  have hfits : b.toNat <<< k < 2 ^ 32 := by
    calc b.toNat <<< k = b.toNat * 2 ^ k := Nat.shiftLeft_eq _ _
      _ ≤ b.toNat * 2 ^ 24 := Nat.mul_le_mul_left _ (Nat.pow_le_pow_right (by decide) hk)
      _ < 2 ^ 32 := by omega
  rw [BitVec.toNat_shiftLeft, BitVec.toNat_setWidth_of_le (by decide), Nat.mod_eq_of_lt hfits]

/-- The four bytes of a field lie in bit ranges that do not meet, so joining them is adding them (R38). -/
theorem assembleBe_toNat (b0 b1 b2 b3 : Byte) :
    (assembleBe b0 b1 b2 b3).toNat = b0.toNat * 2 ^ 24 + b1.toNat * 2 ^ 16 + b2.toNat * 2 ^ 8 + b3.toNat := by
  have hlow : b2.toNat <<< 8 ||| b3.toNat = b2.toNat * 2 ^ 8 + b3.toNat := by
    rw [← Nat.shiftLeft_add_eq_or_of_lt b3.isLt, Nat.shiftLeft_eq]
  have hmid : b1.toNat <<< 16 ||| (b2.toNat * 2 ^ 8 + b3.toNat) =
      b1.toNat * 2 ^ 16 + (b2.toNat * 2 ^ 8 + b3.toNat) := by
    rw [← Nat.shiftLeft_add_eq_or_of_lt (by omega), Nat.shiftLeft_eq]
  simp only [assembleBe, BitVec.toNat_or, shiftLeft_byte_toNat, Nat.reduceLeDiff]
  rw [BitVec.toNat_setWidth_of_le (by decide), Nat.or_assoc, Nat.or_assoc, hlow, hmid,
    ← Nat.shiftLeft_add_eq_or_of_lt (by omega), Nat.shiftLeft_eq, ← Nat.add_assoc, ← Nat.add_assoc]

/-- `u32be` of four readable bytes is the field they make (R38). -/
theorem u32be_eq_some {s : State} {a : Nat} {b0 b1 b2 b3 : Byte} (h0 : memRead s a = some b0)
    (h1 : memRead s (a + 1) = some b1) (h2 : memRead s (a + 2) = some b2) (h3 : memRead s (a + 3) = some b3) :
    u32be s a = some (assembleBe b0 b1 b2 b3) := by
  simp only [u32be, h0, h1, h2, h3]

/-- Settles O37; the source's example is the same sum on its four bytes. -/
theorem fieldsAreBigEndian : Obligations.FieldsAreBigEndian :=
  ⟨fun _ _ b0 b1 b2 b3 h0 h1 h2 h3 => ⟨_, u32be_eq_some h0 h1 h2 h3, assembleBe_toNat b0 b1 b2 b3⟩,
    assembleBe_toNat 0x00#8 0x24#8 0x8E#8 0x5F#8⟩

/-- Below the readable length a filled RAM gives the byte it holds (R37). -/
theorem memRead_of_ramFilled {s : State} (hs : RamFilled s) {a : Nat} (ha : a < readableLen s) :
    ∃ b, memRead s a = some b ∧ s.ram.get a = some b := by
  obtain ⟨b, hb⟩ := Option.ne_none_iff_exists'.mp (hs a ha)
  exact ⟨b, (memRead_below ha).trans hb, hb⟩

/-- Settles O38; after CRCINIT the readable length is 0, and no update of CRCINIT names the RAM. -/
theorem onlyWrittenBytesAreReadable : Obligations.OnlyWrittenBytesAreReadable := by
  refine ⟨fun s a ha => memRead_above ha, fun s hs a ha => memRead_of_ramFilled hs ha, fun s t h => ?_⟩
  obtain rfl := exec_crcinit_eq h
  exact ⟨fun a => memRead_above (Nat.zero_le a), rfl⟩

end Sys2Proof.Machine
end

section
/-! The row of a command in the opcode map: a word whose opcode is the command's decodes to the command with the word's
own operands exactly when the reserved bits are zero and the operands are legal (30_encoding.md R49 to R51, R54,
R56). -/

namespace Sys2Proof

open Sys2Proof.Laws.TableRow (mask matchWord)

/-- The opcode of a command's row (R50). -/
@[simp] def Instr.op : Instr → BitVec 4
  | .nop => 0#4
  | .crcinit => 1#4
  | .push _ => 2#4
  | .check => 3#4
  | .decu32 _ => 4#4
  | .scale _ _ => 5#4
  | .spow _ _ _ => 6#4

/-- The reserved-zero bits of a command's row (R50, R54). -/
@[simp] def Instr.reservedMask : Instr → Word
  | .nop => 0x0FFFFFFF#32
  | .crcinit => 0x0FFFFFFF#32
  | .push _ => 0x0FFFFF00#32
  | .check => 0x0FFFFFFF#32
  | .decu32 _ => 0x0FFFFFC0#32
  | .scale _ _ => 0x0FFCFFC0#32
  | .spow _ _ _ => 0x0FFCC0C0#32

/-- The command of the same row with the operands in the fields of `w` (R51). -/
@[simp] def Instr.withFields (w : Word) : Instr → Instr
  | .nop => .nop
  | .crcinit => .crcinit
  | .push _ => .push (imm8Field w)
  | .check => .check
  | .decu32 _ => .decu32 (offField w)
  | .scale _ _ => .scale (offField w) (scField w)
  | .spow _ _ _ => .spow (offField w) (soffField w) (scField w)

theorem matchWord_eq (i : Instr) : matchWord i = i.op ++ 0#28 := by
  cases i <;> simp only [matchWord, Instr.op] <;> decide

theorem opField_mask (i : Instr) : opField (mask i) = 0xF#4 := by
  cases i <;> simp only [mask] <;> decide

theorem mask_and_low (i : Instr) : mask i &&& 0x0FFFFFFF#32 = i.reservedMask := by
  cases i <;> simp only [mask, Instr.reservedMask] <;> decide

/-- The bits of a field are zero exactly when the word is zero under the field's mask. -/
theorem and_fieldMask_eq_zero (w : Word) (start len : Nat) :
    w &&& (BitVec.allOnes len).setWidth 32 <<< start = 0#32 ↔ w.extractLsb' start len = 0#len := by
  constructor
  · intro h
    ext k hk
    have hbit := congrArg (fun x => x.getLsbD (start + k)) h
    simp only [BitVec.getLsbD_and, BitVec.getLsbD_shiftLeft, BitVec.getLsbD_setWidth, BitVec.getLsbD_allOnes,
      BitVec.getLsbD_zero] at hbit
    by_cases hin : start + k < 32
    · simpa [hin, hk, show k < 32 by omega] using hbit
    · simp [BitVec.getLsbD_of_ge _ _ (not_lt.mp hin)]
  · intro h
    ext k hk
    have hbit := congrArg (fun x => x.getLsbD (k - start)) h
    simp only [BitVec.getLsbD_extractLsb', BitVec.getLsbD_zero] at hbit
    by_cases hlow : k < start
    · simp [hlow]
    · rw [show start + (k - start) = k by omega] at hbit
      rw [← BitVec.getLsbD_eq_getElem, BitVec.getLsbD_and, BitVec.getLsbD_shiftLeft, BitVec.getLsbD_setWidth,
        BitVec.getLsbD_allOnes]
      rcases Bool.and_eq_false_iff.mp hbit with hout | hzero
      · simp [hout]
      · simp [hzero]

theorem eq_append_zero_iff {w : Word} {op : BitVec 4} :
    w = op ++ 0#28 ↔ opField w = op ∧ w.extractLsb' 0 28 = 0#28 := by
  constructor
  · rintro rfl
    exact ⟨BitVec.extractLsb'_append_eq_left, BitVec.extractLsb'_append_eq_right⟩
  · rintro ⟨rfl, hlow⟩
    rw [← hlow]
    exact (BitVec.extractLsb'_append_extractLsb' (w := 4) (len := 28)).symm

/-- A word meets a row's mask and match exactly when it has the row's opcode and zero reserved bits (R50, R54). -/
theorem and_mask_eq_iff {w : Word} {i : Instr} :
    w &&& mask i = matchWord i ↔ opField w = i.op ∧ w &&& i.reservedMask = 0#32 := by
  have hop : opField (w &&& mask i) = opField w := by
    rw [opField, BitVec.extractLsb'_and]
    exact (congrArg _ (opField_mask i)).trans BitVec.and_allOnes
  have hlow : (w &&& mask i).extractLsb' 0 28 = 0#28 ↔ w &&& i.reservedMask = 0#32 := by
    rw [← and_fieldMask_eq_zero, BitVec.and_assoc, ← mask_and_low]
    rfl
  rw [matchWord_eq, eq_append_zero_iff, hop, hlow]

/-! The checks of R56 on the fields of a word, as masks of its row. -/

theorem eq_match_iff {w : Word} {op : BitVec 4} (hop : opField w = op) :
    w = op ++ 0#28 ↔ w &&& 0x0FFFFFFF#32 = 0#32 := by
  rw [eq_append_zero_iff, ← and_fieldMask_eq_zero, and_iff_right hop]
  rfl

theorem and_pushReserved {w : Word} : w &&& 0x0FFFFF00#32 = 0#32 ↔ w.extractLsb' 8 20 = 0#20 :=
  and_fieldMask_eq_zero w 8 20

theorem and_decu32Reserved {w : Word} : w &&& 0x0FFFFFC0#32 = 0#32 ↔ w.extractLsb' 6 22 = 0#22 :=
  and_fieldMask_eq_zero w 6 22

theorem and_scaleReserved {w : Word} :
    w &&& 0x0FFCFFC0#32 = 0#32 ↔ w.extractLsb' 18 10 = 0#10 ∧ w.extractLsb' 6 10 = 0#10 := by
  rw [← and_fieldMask_eq_zero, ← and_fieldMask_eq_zero, ← BitVec.or_eq_zero_iff, ← BitVec.and_or_distrib_left]
  rfl

theorem and_spowReserved {w : Word} :
    w &&& 0x0FFCC0C0#32 = 0#32 ↔
      w.extractLsb' 18 10 = 0#10 ∧ w.extractLsb' 14 2 = 0#2 ∧ w.extractLsb' 6 2 = 0#2 := by
  rw [← and_fieldMask_eq_zero, ← and_fieldMask_eq_zero, ← and_fieldMask_eq_zero, ← BitVec.or_eq_zero_iff,
    ← BitVec.or_eq_zero_iff, ← BitVec.and_or_distrib_left, ← BitVec.and_or_distrib_left]
  rfl

theorem legalIf_congr {a b : Bool} (i : Instr) (h : a = true ↔ b = true) : legalIf a i = legalIf b i := by
  rw [Bool.eq_iff_iff.mpr h]

/-- The decode function, row by row: the reserved bits are checked, then the operands (R56). -/
theorem decode_of_op {w : Word} {i : Instr} (hop : opField w = i.op) :
    decode w = legalIf (w &&& i.reservedMask == 0#32 && (i.withFields w).wellFormed) (i.withFields w) := by
  cases i with
  | nop =>
    have hmatch : w = 0#32 ↔ w &&& Instr.nop.reservedMask = 0#32 := eq_match_iff hop
    rw [decode, hop]
    exact legalIf_congr _ (by simp [Instr.wellFormed, hmatch])
  | crcinit =>
    have hmatch : w = 0x10000000#32 ↔ w &&& Instr.crcinit.reservedMask = 0#32 := eq_match_iff hop
    rw [decode, hop]
    exact legalIf_congr _ (by simp [Instr.wellFormed, hmatch])
  | push b =>
    rw [decode, hop]
    exact legalIf_congr _ (by simp [Instr.wellFormed, and_pushReserved])
  | check =>
    have hmatch : w = 0x30000000#32 ↔ w &&& Instr.check.reservedMask = 0#32 := eq_match_iff hop
    rw [decode, hop]
    exact legalIf_congr _ (by simp [Instr.wellFormed, hmatch])
  | decu32 off =>
    rw [decode, hop]
    exact legalIf_congr _ (by simp [Instr.wellFormed, and_decu32Reserved])
  | scale off sc =>
    rw [decode, hop]
    exact legalIf_congr _ (by simp [Instr.wellFormed, and_scaleReserved, and_assoc, and_left_comm, and_comm])
  | spow off soff sc =>
    rw [decode, hop]
    exact legalIf_congr _ (by simp [Instr.wellFormed, and_spowReserved, and_assoc, and_left_comm, and_comm])

/-- Opcodes 7 to 15 have no row (R54). -/
theorem decode_of_op_ge {w : Word} (hop : 7 ≤ (opField w).toNat) : decode w = .illegal := by
  have hne : ∀ op : BitVec 4, op.toNat < 7 → opField w ≠ op := by
    rintro op hlt rfl
    omega
  simp [decode, hne]

/-! The fields of a command's own word. -/

theorem offField_fieldWord (op : BitVec 4) (sc : BitVec 2) (soff off : BitVec 6) :
    offField (fieldWord op sc soff off) = off :=
  BitVec.extractLsb'_append_eq_right

theorem soffField_fieldWord (op : BitVec 4) (sc : BitVec 2) (soff off : BitVec 6) :
    soffField (fieldWord op sc soff off) = soff := by
  rw [soffField, fieldWord, BitVec.extractLsb'_append_eq_of_le (by decide),
    BitVec.extractLsb'_append_eq_of_le (by decide)]
  exact BitVec.extractLsb'_append_eq_right

theorem scField_fieldWord (op : BitVec 4) (sc : BitVec 2) (soff off : BitVec 6) :
    scField (fieldWord op sc soff off) = sc := by
  rw [scField, fieldWord, BitVec.extractLsb'_append_eq_of_le (by decide),
    BitVec.extractLsb'_append_eq_of_le (by decide), BitVec.extractLsb'_append_eq_of_le (by decide),
    BitVec.extractLsb'_append_eq_of_le (by decide)]
  exact BitVec.extractLsb'_append_eq_right

theorem imm8Field_encode_push (b : Byte) : imm8Field (encode (.push b)) = b :=
  BitVec.extractLsb'_append_eq_right

theorem withFields_encode (i : Instr) : i.withFields (encode i) = i := by
  cases i with
  | nop => rfl
  | crcinit => rfl
  | push b => rw [Instr.withFields, imm8Field_encode_push]
  | check => rfl
  | decu32 off => rw [Instr.withFields, encode, offField_fieldWord]
  | scale off sc => rw [Instr.withFields, encode, offField_fieldWord, scField_fieldWord]
  | spow off soff sc => rw [Instr.withFields, encode, offField_fieldWord, soffField_fieldWord, scField_fieldWord]

/-- Every command's word meets its row: the statement of Laws/PerInstr.lean, for all commands at once (R50). -/
theorem encode_and_mask (i : Instr) : encode i &&& mask i = matchWord i := by
  cases i with
  | nop => exact Laws.TableRow.nop
  | crcinit => exact Laws.TableRow.crcinit
  | push b => exact Laws.TableRow.push b
  | check => exact Laws.TableRow.check
  | decu32 off => exact Laws.TableRow.decu32 off
  | scale off sc => exact Laws.TableRow.scale off sc
  | spow off soff sc => exact Laws.TableRow.spow off soff sc

/-- A word decodes to a command exactly when it meets the row's mask and match, the operands are its fields, and the
extra legality holds (R50, R51). -/
theorem decode_eq_command_iff {w : Word} {i : Instr} :
    decode w = .command i ↔ w &&& mask i = matchWord i ∧ i = i.withFields w ∧ i.wellFormed = true := by
  constructor
  · intro h
    obtain ⟨hwf, rfl⟩ := wellFormed_and_encode_of_decode h
    exact ⟨encode_and_mask i, (withFields_encode i).symm, hwf⟩
  · rintro ⟨hrow, hfields, hwf⟩
    obtain ⟨hop, hreserved⟩ := and_mask_eq_iff.mp hrow
    rw [decode_of_op hop, ← hfields, hreserved, hwf]
    rfl

/-- Settles O3: the command's own word meets its row, and its fields are the operands. -/
theorem decodeOfEncode : Obligations.DecodeOfEncode := fun i hwf =>
  decode_eq_command_iff.mpr ⟨encode_and_mask i, (withFields_encode i).symm, hwf⟩

end Sys2Proof
end

section
/-! The opcode map over all words: which words are illegal, what each row selects, and how many words it has
(30_encoding.md R49 to R51, R54, R56). -/

namespace Sys2Proof

open Sys2Proof.Laws.TableRow (mask matchWord)

/-- Settles O2: the decoder evaluated on the twelve words. -/
theorem sampleWordsDecode : Obligations.SampleWordsDecode := by
  unfold Obligations.SampleWordsDecode
  decide

/-- Settles O6, row by row from `decode_eq_command_iff`; `offOk` and `scOk` are the extra legality of the rows. -/
theorem opcodeRowsSelectTheCommand : Obligations.OpcodeRowsSelectTheCommand := by
  intro w
  have hrow := fun i => decode_eq_command_iff (w := w) (i := i)
  refine ⟨?_, ?_, fun b => ?_, ?_, fun off => ?_, fun off sc => ?_, fun off soff sc => ?_, decode_of_op_ge⟩
  · simpa [mask, matchWord, Instr.wellFormed] using hrow .nop
  · simpa [mask, matchWord, Instr.wellFormed] using hrow .crcinit
  · simpa [mask, matchWord, Instr.wellFormed, imm8Field] using hrow (.push b)
  · simpa [mask, matchWord, Instr.wellFormed] using hrow .check
  · simpa [mask, matchWord, Instr.wellFormed, offField, offOk] using hrow (.decu32 off)
  · simpa [mask, matchWord, Instr.wellFormed, offField, scField, offOk, scOk, and_assoc]
      using hrow (.scale off sc)
  · simpa [mask, matchWord, Instr.wellFormed, offField, soffField, scField, offOk, scOk, and_assoc]
      using hrow (.spow off soff sc)

theorem legalIf_eq_illegal {ok : Bool} {i : Instr} : legalIf ok i = .illegal ↔ ok = false := by
  cases ok <;> simp [legalIf]

/-- A word with the opcode of a row is illegal when a reserved bit is 1 or an operand is not legal (R54). -/
theorem decode_eq_illegal_iff {w : Word} {i : Instr} (hop : opField w = i.op) :
    decode w = .illegal ↔ w &&& i.reservedMask ≠ 0#32 ∨ (i.withFields w).wellFormed = false := by
  rw [decode_of_op hop, legalIf_eq_illegal, Bool.and_eq_false_iff, beq_eq_false_iff_ne]

/-- Every opcode below 7 has a row (R50). -/
theorem opField_cases (w : Word) : 7 ≤ (opField w).toNat ∨ ∃ i : Instr, opField w = i.op := by
  have hall : ∀ op : BitVec 4, 7 ≤ op.toNat ∨ op = 0#4 ∨ op = 1#4 ∨ op = 2#4 ∨ op = 3#4 ∨ op = 4#4 ∨ op = 5#4 ∨
    op = 6#4 := by decide
  rcases hall (opField w) with h | h | h | h | h | h | h | h
  · exact .inl h
  · exact .inr ⟨.nop, h⟩
  · exact .inr ⟨.crcinit, h⟩
  · exact .inr ⟨.push 0#8, h⟩
  · exact .inr ⟨.check, h⟩
  · exact .inr ⟨.decu32 0#6, h⟩
  · exact .inr ⟨.scale 0#6 0#2, h⟩
  · exact .inr ⟨.spow 0#6 0#6 0#2, h⟩

/-- Settles O5: the words by their opcode, each row by `decode_eq_illegal_iff`. -/
theorem illegalWordsExactly : Obligations.IllegalWordsExactly := by
  refine ⟨fun w => ?_, fun w s hd hf => Machine.accept_illegal hf hd⟩
  rcases opField_cases w with hge | ⟨i, hop⟩
  · exact iff_of_true (decode_of_op_ge hge) (.inl hge)
  · rw [decode_eq_illegal_iff hop, hop]
    cases i with
    | nop => simp [Instr.wellFormed]
    | crcinit => simp [Instr.wellFormed]
    | push b => simp [Instr.wellFormed]
    | check => simp [Instr.wellFormed]
    | decu32 off => simp [Instr.wellFormed, offOk]
    | scale off sc => simp [Instr.wellFormed, offOk, scOk, imp_iff_not_or]
    | spow off soff sc => simp [Instr.wellFormed, offOk, scOk, imp_iff_not_or]

/-- The words of a family of commands are as many as its well-formed commands, each having one word (R58). -/
theorem card_words {α : Type} {f : α → Instr} (hf : Function.Injective f) :
    Nat.card { w : Word // ∃ a, decode w = .command (f a) } = Nat.card { a // (f a).wellFormed = true } := by
  refine (Nat.card_congr (Equiv.ofBijective (fun a => ⟨encode (f a.1), a.1, decodeOfEncode _ a.2⟩) ⟨?_, ?_⟩)).symm
  · intro a b hab
    have hwords : encode (f a.1) = encode (f b.1) := congrArg Subtype.val hab
    have hdecoded := decodeOfEncode _ a.2
    rw [hwords, decodeOfEncode _ b.2] at hdecoded
    exact Subtype.ext (hf (Decoded.command.inj hdecoded).symm)
  · rintro ⟨w, a, hd⟩
    exact ⟨⟨a, wellFormed_of_decode hd⟩, Subtype.ext (encode_of_decode hd)⟩

theorem card_words_of_command {i : Instr} (hi : i.wellFormed = true) :
    Nat.card { w : Word // decode w = .command i } = 1 := by
  have hcard := card_words (f := fun _ : Unit => i) fun _ _ _ => rfl
  simpa [hi] using hcard

theorem card_offOk : Nat.card { off // offOk off = true } = 61 := by
  rw [Nat.card_eq_fintype_card]
  decide

theorem card_scOk : Nat.card { sc // scOk sc = true } = 3 := by
  rw [Nat.card_eq_fintype_card]
  decide

theorem card_bitVec (n : Nat) : Nat.card (BitVec n) = 2 ^ n :=
  (Nat.card_congr BitVec.equivFin.toEquiv).trans (Nat.card_fin _)

theorem card_subtype_prod {α β : Type} (p : α → Prop) (q : β → Prop) :
    Nat.card { c : α × β // p c.1 ∧ q c.2 } = Nat.card { a // p a } * Nat.card { b // q b } :=
  (Nat.card_congr Equiv.subtypeProdEquivProd).trans (Nat.card_prod _ _)

/-- The operands of SCALE are a legal offset and a legal scale code. -/
theorem card_scaleOperands :
    Nat.card { p : BitVec 6 × BitVec 2 // offOk p.1 = true ∧ scOk p.2 = true } = 183 := by
  rw [card_subtype_prod (fun off => offOk off = true) fun sc => scOk sc = true, card_offOk, card_scOk]

/-- The operands of SPOW are a legal offset, any sign offset and a legal scale code. -/
theorem card_spowOperands :
    Nat.card { p : BitVec 6 × BitVec 6 × BitVec 2 // offOk p.1 = true ∧ scOk p.2.2 = true } = 11712 := by
  have hsigns := card_subtype_prod (fun _ : BitVec 6 => True) fun sc => scOk sc = true
  simp only [true_and, Nat.card_subtype_true, card_bitVec, card_scOk] at hsigns
  rw [card_subtype_prod (fun off => offOk off = true) fun p : BitVec 6 × BitVec 2 => scOk p.2 = true, card_offOk,
    hsigns]
  norm_num

/-- Settles O7: one word per well-formed command, the operands counted field by field. -/
theorem legalWordCounts : Obligations.LegalWordCounts := by
  refine ⟨card_words_of_command rfl, card_words_of_command rfl, ?_, card_words_of_command rfl, ?_, ?_, ?_⟩
  · rw [card_words fun _ _ => Instr.push.inj]
    simp only [Instr.wellFormed, Nat.card_subtype_true]
    exact card_bitVec 8
  · rw [card_words fun _ _ => Instr.decu32.inj]
    exact card_offOk
  · have hwords := card_words (f := fun p : BitVec 6 × BitVec 2 => .scale p.1 p.2) fun p q h => by
      simpa [Prod.ext_iff] using h
    simp only [Prod.exists, Instr.wellFormed, Bool.and_eq_true] at hwords
    rw [hwords, card_scaleOperands]
  · have hwords := card_words (f := fun p : BitVec 6 × BitVec 6 × BitVec 2 => .spow p.1 p.2.1 p.2.2) fun p q h => by
      simpa [Prod.ext_iff] using h
    simp only [Prod.exists, Instr.wellFormed, Bool.and_eq_true] at hwords
    rw [hwords, card_spowOperands]

end Sys2Proof
end

section
/-! The assembler's lines of one command, over all numbers (30_encoding.md R57, R58). -/

namespace Sys2Proof.Machine

/-- A line of one command gives the command's word, which decodes to it, or is refused (R57). -/
theorem asmCommand_spec {inRange : Bool} {i : Instr} {P : Prop} [Decidable P]
    (hP : inRange = true ∧ i.wellFormed = true ↔ P) :
    if P then ∃ w, asmCommand inRange i = some [w] ∧ decode w = .command i else asmCommand inRange i = none := by
  split
  · rename_i h
    obtain ⟨hrange, hwf⟩ := hP.mpr h
    exact ⟨encode i, by simp [asmCommand, hrange, hwf], decodeOfEncode i hwf⟩
  · rename_i h
    simpa [asmCommand] using fun hrange hwf => h (hP.mp ⟨hrange, hwf⟩)

theorem asmCommand_eq_some {inRange : Bool} {i : Instr} {w : Word} (h : asmCommand inRange i = some [w]) :
    inRange = true ∧ decode w = .command i := by
  obtain ⟨hok, hw⟩ : (inRange = true ∧ i.wellFormed = true) ∧ encode i = w := by simpa [asmCommand] using h
  exact ⟨hok.1, hw ▸ decodeOfEncode i hok.2⟩

/-- A six-bit operand reads back as the number of the line (R57). -/
theorem toNat_ofNat_six {n : Nat} (h : decide (n < 64) = true) : (BitVec.ofNat 6 n).toNat = n :=
  Nat.mod_eq_of_lt (of_decide_eq_true h)

theorem offOk_ofNat {n : Nat} : decide (n < 64) = true ∧ offOk (BitVec.ofNat 6 n) = true ↔ n ≤ 60 := by
  simp only [offOk, Config.maxOff, BitVec.toNat_ofNat, decide_eq_true_eq]
  omega

theorem scOk_iff {sc : BitVec 2} : scOk sc = true ↔ sc ≠ 3#2 := by
  simp [scOk]

/-- Settles O8: each range of the statement is `asmCommand`'s own check. -/
theorem assemblerRefusesOutOfRange : Obligations.AssemblerRefusesOutOfRange := by
  refine ⟨fun n => asmCommand_spec ?_, fun n => asmCommand_spec offOk_ofNat, fun n sc => asmCommand_spec ?_,
    fun n m sc => asmCommand_spec ?_⟩
  · simp [Instr.wellFormed, Nat.lt_succ_iff]
  · rw [Instr.wellFormed, Bool.and_eq_true, ← and_assoc, offOk_ofNat, scOk_iff]
  · rw [Instr.wellFormed, Bool.and_eq_true, Bool.and_eq_true, and_and_and_comm, offOk_ofNat, decide_eq_true_eq,
      scOk_iff, Nat.lt_succ_iff]

/-- The line of a command is its one command, all operands in range. -/
theorem assembleLine_spelling (i : Instr) : assembleLine (spelling i) = asmCommand true i := by
  have hbyte : ∀ b : Byte, decide (b.toNat < 256) = true := fun b => decide_eq_true b.isLt
  have hsix : ∀ b : BitVec 6, decide (b.toNat < 64) = true := fun b => decide_eq_true b.isLt
  cases i <;> simp only [spelling, assembleLine, BitVec.ofNat_toNat, BitVec.setWidth_eq, hbyte, hsix, Bool.and_self]

/-- Settles O4: a spelled command assembles to its own word, and a line's numbers are the operands they give. -/
theorem oneSpellingPerLegalWord : Obligations.OneSpellingPerLegalWord := by
  refine ⟨fun w i hd => ?_, fun l w hl hw => ?_, by decide, by decide⟩
  · obtain ⟨hwf, rfl⟩ := wellFormed_and_encode_of_decode hd
    exact ⟨hwf, rfl, by rw [assembleLine_spelling, asmCommand, hwf]; rfl⟩
  · rcases hl with ⟨n, rfl⟩ | ⟨n, sc, rfl⟩ | ⟨n, m, sc, rfl⟩
    · obtain ⟨hn, hd⟩ := asmCommand_eq_some hw
      exact ⟨_, hd, by rw [spelling, toNat_ofNat_six hn]⟩
    · obtain ⟨hn, hd⟩ := asmCommand_eq_some hw
      exact ⟨_, hd, by rw [spelling, toNat_ofNat_six hn]⟩
    · obtain ⟨hnm, hd⟩ := asmCommand_eq_some hw
      obtain ⟨hn, hm⟩ := Bool.and_eq_true_iff.mp hnm
      exact ⟨_, hd, by rw [spelling, toNat_ofNat_six hn, toNat_ofNat_six hm]⟩

end Sys2Proof.Machine
end

section
/-! SUPPORT. The register form of the CRC computes the source's function (40_crc.md R61 to R63, R66). -/

namespace Sys2Proof.Machine

theorem crcShift_toNat (c : BitVec 16) : (crcShift c).toNat = sourceCrcBit c.toNat := by
  have hlow : c.getLsbD 0 = decide (c.toNat % 2 = 1) := Nat.testBit_zero c.toNat
  have hhalf : (c >>> 1).toNat = c.toNat / 2 := BitVec.toNat_ushiftRight c 1
  simp only [crcShift, sourceCrcBit, hlow, decide_eq_true_eq]
  split
  · rw [BitVec.toNat_xor, hhalf]
    rfl
  · exact hhalf

theorem crcShifts_toNat (n : Nat) (c : BitVec 16) : (crcShifts n c).toNat = sourceCrcBits n c.toNat := by
  induction n generalizing c with
  | zero => rfl
  | succ n ih => rw [crcShifts, sourceCrcBits, ih, crcShift_toNat]

theorem crcStep_toNat (c : BitVec 16) (b : Byte) : (crcStep c b).toNat = sourceCrcByte c.toNat b.toNat := by
  rw [crcStep, sourceCrcByte, crcShifts_toNat, BitVec.toNat_xor, BitVec.toNat_setWidth_of_le (by decide)]

theorem crcFold_toNat (c : BitVec 16) (bytes : List Byte) : (crcFold c bytes).toNat = sourceCrc c.toNat bytes := by
  induction bytes generalizing c with
  | nil => rfl
  | cons b rest ih => rw [crcFold_cons, sourceCrc_cons, ih, crcStep_toNat]

end Sys2Proof.Machine
end

section
/-! SUPPORT. The invariant of the streaming CRC (40_crc.md R67): a buffer with its last two bytes in the delay line. -/

namespace Sys2Proof.Machine

theorem holdsBuffer_startBuffer (s : State) : HoldsBuffer (clearResult (startBuffer s)) [] :=
  ⟨⟨rfl, fun _ => nofun⟩, rfl, nofun, nofun⟩

/-- CNT and the RAM after one more byte (R36, R65). -/
theorem holds_absorb {s : State} {bytes : List Byte} (h : Holds s bytes) (b : Byte) :
    Holds (clearResult (absorb b s)) (bytes ++ [b]) := by
  obtain ⟨hcnt, hram⟩ := h
  refine ⟨?_, fun a ha => ?_⟩
  · rw [clearResult_cnt, absorb_cnt, cntAfterPush_toNat, hcnt, List.length_append, List.length_singleton, Config.cntMax]
    omega
  · rw [clearResult_ram, absorb_ram, ramAfterPush_get, hcnt]
    simp only [List.length_append, List.length_singleton, Config.ramSize, Config.cntMax] at ha hram ⊢
    by_cases hnew : a = bytes.length
    · rw [if_pos (by omega), hnew, List.getElem?_concat_length]
    · rw [if_neg (by omega), hram a (by omega), List.getElem?_append_left (by omega)]

/-- The byte two places back is folded once the delay line is full (R65). -/
theorem crcAfterPush_of_holdsBuffer {s : State} {bytes : List Byte} (h : HoldsBuffer s bytes) (b : Byte) :
    crcAfterPush s = crcFold Config.crcInit ((bytes ++ [b]).take ((bytes ++ [b]).length - Config.minBuffer)) := by
  obtain ⟨⟨hcnt, -⟩, hcrc, hd0, -⟩ := h
  simp only [crcAfterPush, hcnt, hcrc, Config.cntMax, Config.minBuffer, List.length_append,
    List.length_singleton] at hd0 ⊢
  by_cases hlong : 2 ≤ bytes.length
  · have hfolded : (bytes ++ [b]).take (bytes.length + 1 - 2) = bytes.take (bytes.length - 2) ++ [s.dl0] := by
      rw [List.take_append_of_le_length (by omega), show bytes.length + 1 - 2 = bytes.length - 2 + 1 by omega,
        List.take_add_one, hd0 hlong]
      rfl
    rw [if_pos (by omega), hfolded, crcFold_append]
    rfl
  · rw [if_neg (by omega), show bytes.length - 2 = 0 by omega, show bytes.length + 1 - 2 = 0 by omega, List.take_zero,
      List.take_zero]

/-- PUSH keeps the invariant of R67 for the buffer with the byte added. -/
theorem holdsBuffer_absorb {s : State} {bytes : List Byte} (h : HoldsBuffer s bytes) (b : Byte) :
    HoldsBuffer (clearResult (absorb b s)) (bytes ++ [b]) := by
  have hcrc := crcAfterPush_of_holdsBuffer h b
  obtain ⟨hholds, -, -, hd1⟩ := h
  refine ⟨holds_absorb hholds b, hcrc, fun hlong => ?_, fun _ => ?_⟩
  · simp only [List.length_append, List.length_singleton, Config.minBuffer] at hlong ⊢
    rw [List.getElem?_append_left (by omega)]
    exact hd1 (by omega)
  · simp

/-- The comparison CHECK makes is the source's, for a buffer of at least two bytes (R66, R67). -/
theorem trailerMatches_of_holdsBuffer {s : State} {bytes : List Byte} (h : HoldsBuffer s bytes)
    (hlong : 2 ≤ bytes.length) : trailerMatches s = computeOrCheck bytes := by
  obtain ⟨-, hcrc, hd0, hd1⟩ := h
  have hfold : s.crc.toNat = sourceCrc 0xFFFF (bytes.take (bytes.length - 2)) := by
    rw [hcrc]
    exact crcFold_toNat _ _
  have hlow : byteAt bytes (bytes.length - 2) = s.dl0.toNat := by
    rw [byteAt, List.getD_eq_getElem?_getD, hd0 hlong]
    rfl
  have hhigh : byteAt bytes (bytes.length - 1) = s.dl1.toNat := by
    rw [byteAt, List.getD_eq_getElem?_getD, hd1 (by omega)]
    rfl
  rw [trailerMatches, computeOrCheck, hlow, hhigh, ← hfold, ← trailer_toNat, Bool.eq_iff_iff, beq_iff_eq, beq_iff_eq,
    BitVec.toNat_inj]

end Sys2Proof.Machine
end

section
/-! Runs of presented words, and the sequence pseudo-instructions `pushbytes` and `vframe` (30_encoding.md R60). -/

namespace Sys2Proof.Machine

/-- A command leaves the RST pin and the host's later moves alone. -/
theorem exec_rst_host {i : Instr} {s t : State} (h : exec i s = .next t) : t.rst = s.rst ∧ t.host = s.host := by
  obtain ⟨u, hu, hshape⟩ := exec_shape i s
  obtain rfl : u = t := by rw [hu] at h; cases h; rfl
  rcases hshape with rfl | rfl | rfl | rfl | ⟨b, rfl⟩ | ⟨m, rfl⟩ | ⟨r, rfl⟩ | ⟨r, n, sc, rfl⟩ <;> exact ⟨rfl, rfl⟩

/-- The word of a well-formed command, presented, runs that command. -/
theorem step_of_presents {s : State} {i : Instr} {words : List Word} {rest : List HostMove}
    (h : Presents s (encode i :: words) rest) (hi : i.wellFormed = true) :
    step s = exec i (setHost (words.map .command ++ rest) s) := by
  obtain ⟨hrst, hfault, hhost⟩ := h
  rw [step_command hhost hrst]
  exact accept_command hfault (decodeOfEncode i hi)

/-- After a command without a fault the block is at rest before the next word. -/
theorem presents_after_exec {s t : State} {i : Instr} {words : List Word} {rest : List HostMove}
    (h : Presents s (encode i :: words) rest) (ht : exec i (setHost (words.map .command ++ rest) s) = .next t)
    (hf : t.fault = false) : Presents t words rest := by
  obtain ⟨hlow, -, -⟩ := h
  obtain ⟨hrst, hhost⟩ := exec_rst_host ht
  exact ⟨hrst.trans hlow, hf, hhost⟩

/-- The pushes of a list of bytes run to their end and add the bytes to the buffer (R67). -/
theorem runSteps_pushes (bytes : List Byte) {s : State} {pushed : List Byte} {words : List Word} {rest : List HostMove}
    (h : Presents s ((bytes.map fun b => encode (.push b)) ++ words) rest) (hs : HoldsBuffer s pushed) :
    ∃ t, runSteps bytes.length s = .next t ∧ Presents t words rest ∧ HoldsBuffer t (pushed ++ bytes) ∧
      t.bypass = s.bypass := by
  induction bytes generalizing s pushed with
  | nil => exact ⟨s, rfl, h, by rwa [List.append_nil], rfl⟩
  | cons b bytes ih =>
    have hstep := step_of_presents h rfl
    have ⟨_, hfault, _⟩ := h
    obtain ⟨t, ht, hpresents, hbuffer, hbypass⟩ := ih (presents_after_exec h rfl hfault) (holdsBuffer_absorb hs b)
    refine ⟨t, ?_, hpresents, ?_, hbypass⟩
    · rw [List.length_cons, runSteps_succ _ hstep, ← ht]
      rfl
    · rwa [List.append_assoc] at hbuffer

theorem encode_push (b : Byte) : encode (.push b) = 0x20000000#32 ||| b.setWidth 32 := by
  revert b
  decide

theorem assembleLine_pushbytes (bytes : List Byte) :
    assembleLine (.pushbytes bytes) = some (bytes.map fun b => encode (.push b)) := by
  simp [assembleLine, expandPushbytes]

theorem assembleLine_vframe (bytes : List Byte) :
    assembleLine (.vframe bytes) =
      some (encode .crcinit :: ((bytes.map fun b => encode (.push b)) ++ [encode .check])) := by
  simp [assembleLine, expandVframe, expandPushbytes]

/-- CRCINIT, the pushes of a buffer and CHECK, presented in any state, leave MATCH as the source's check (R60, R67). -/
theorem runSteps_vframe {s : State} {bytes : List Byte} {rest : List HostMove}
    (h : Presents s (encode .crcinit :: ((bytes.map fun b => encode (.push b)) ++ [encode .check])) rest)
    (hlong : 2 ≤ bytes.length) (hb : s.bypass = false) :
    ∃ t, runSteps (bytes.length + 2) s = .next t ∧ t.host = rest ∧ t.mvalid = true ∧
      t.matchFlag = computeOrCheck bytes := by
  have ⟨_, hfault, _⟩ := h
  obtain ⟨u, hrun, hpresents, hbuffer, hbypass⟩ :=
    runSteps_pushes bytes (presents_after_exec h rfl hfault) (holdsBuffer_startBuffer _)
  have ⟨⟨hcnt, _⟩, _⟩ := hbuffer
  have hcount : 2 ≤ u.cnt.toNat := hcnt ▸ le_min hlong (by decide)
  have hcheck : step u = .next (setResult (u.bypass || trailerMatches u) (setHost rest u)) :=
    (step_of_presents hpresents rfl).trans (exec_check_result fun _ => hcount)
  refine ⟨setResult (u.bypass || trailerMatches u) (setHost rest u), ?_, rfl, rfl, ?_⟩
  · rw [runSteps_succ _ (step_of_presents h rfl), runSteps_add _ 1 hrun, runSteps_succ 0 hcheck, runSteps]
  · rw [setResult_matchFlag, show u.bypass = false from hbypass.trans hb, Bool.false_or,
      trailerMatches_of_holdsBuffer hbuffer hlong, List.nil_append]

/-- Settles O34: `runSteps_vframe` on the words `vframe` assembles to; STATUS[1] is MATCH. -/
theorem vframeValidatesTheBuffer : Obligations.VframeValidatesTheBuffer := by
  refine ⟨fun bytes => ?_, fun bytes => ?_, fun s bytes words rest hwords hpresents hlong hb => ?_⟩
  · rw [assembleLine_pushbytes, funext encode_push]
  · exact ⟨_, assembleLine_pushbytes bytes, List.length_map _, assembleLine_vframe bytes⟩
  · rw [assembleLine_vframe] at hwords
    cases hwords
    obtain ⟨t, hrun, hhost, hvalid, hmatch⟩ := runSteps_vframe hpresents hlong hb
    exact ⟨by simp, t, hrun, hhost, hvalid, (status_getLsbD t 1).trans hmatch⟩

end Sys2Proof.Machine
end

section
/-! The current buffer along a run: every step keeps the CRC unit and the RAM as the bytes of the buffer leave them
(40_crc.md R64 to R67; 42_system.md R87; 70_reset_and_hazards.md R105). -/

namespace Sys2Proof.Machine

/-- The bytes of the current buffer after a command (R64, R65). -/
def bufferAfterCommand : Instr → List Byte → List Byte
  | .push b, bytes => bytes ++ [b]
  | .crcinit, _ => []
  | _, bytes => bytes

theorem bufferAfterWord_of_fault (w : Word) (bytes : List Byte) : bufferAfterWord true w bytes = bytes := rfl

theorem bufferAfterWord_illegal {w : Word} (hd : decode w = .illegal) (bytes : List Byte) :
    bufferAfterWord false w bytes = bytes := by
  simp [bufferAfterWord, hd]

theorem bufferAfterWord_command {w : Word} {i : Instr} (hd : decode w = .command i) (bytes : List Byte) :
    bufferAfterWord false w bytes = bufferAfterCommand i bytes := by
  cases i <;> simp [bufferAfterWord, bufferAfterCommand, hd]

theorem bufferAfter_rst {s : State} {level : Bool} {rest : List HostMove} (h : s.host = .rst level :: rest)
    (bytes : List Byte) : bufferAfter s bytes = if s.rst = true ∧ level = false then [] else bytes := by
  rw [bufferAfter, h]
  cases level <;> simp

/-- A scaler command touches neither the CRC unit nor the RAM (R32). -/
theorem exec_scaler_holdsBuffer {i : Instr} {s t : State} {bytes : List Byte} (hs : HoldsBuffer s bytes)
    (hi : IsScaler i) (h : exec i s = .next t) : HoldsBuffer t bytes := by
  obtain ⟨upd, hupd, rfl⟩ := exec_scaler_update hi h
  rcases hupd with rfl | ⟨off, r, -, rfl⟩ | ⟨r, n, sc, rfl⟩ <;> exact hs

theorem exec_holdsBuffer {i : Instr} {s t : State} {bytes : List Byte} (hs : HoldsBuffer s bytes)
    (h : exec i s = .next t) : HoldsBuffer t (bufferAfterCommand i bytes) := by
  cases i with
  | nop => rw [exec_nop_eq h]; exact hs
  | crcinit => rw [exec_crcinit_eq h]; exact holdsBuffer_startBuffer s
  | push b => rw [exec_push_eq h]; exact holdsBuffer_absorb hs b
  | check => rcases exec_check_cases h with ⟨-, -, rfl⟩ | ⟨-, rfl⟩ <;> exact hs
  | decu32 off => exact exec_scaler_holdsBuffer hs (.inl ⟨off, rfl⟩) h
  | scale off sc => exact exec_scaler_holdsBuffer hs (.inr (.inl ⟨off, sc, rfl⟩)) h
  | spow off soff sc => exact exec_scaler_holdsBuffer hs (.inr (.inr ⟨off, soff, sc, rfl⟩)) h

theorem accept_holdsBuffer {w : Word} {s t : State} {bytes : List Byte} (hs : HoldsBuffer s bytes)
    (h : accept w s = .next t) : HoldsBuffer t (bufferAfterWord s.fault w bytes) := by
  rcases accept_cases h with ⟨hf, rfl⟩ | ⟨hf, hd, rfl⟩ | ⟨hf, i, hd, hexec⟩
  · rwa [hf, bufferAfterWord_of_fault]
  · rw [hf, bufferAfterWord_illegal hd]
    exact hs
  · rw [hf, bufferAfterWord_command hd]
    exact exec_holdsBuffer hs hexec

/-- Settles O55, by the cases of a step: an accepted word is `accept_holdsBuffer`, the fall of RST is the state after
reset, and the buffer looks at no pin. -/
theorem bufferKeptByEveryStep : Obligations.BufferKeptByEveryStep := by
  intro s t bytes hs h
  rcases step_cases h with ⟨hh, rfl⟩ | ⟨w, rest, hh, -, haccept⟩ | ⟨rest, hh, hr, rfl⟩ |
    ⟨level, rest, hh, hlevel, rfl⟩ | ⟨level, rest, hh, rfl⟩ | ⟨sel, rest, hh, rfl⟩
  · rwa [bufferAfter, hh]
  · rw [bufferAfter, hh]
    exact accept_holdsBuffer (s := setHost rest s) hs haccept
  · rw [bufferAfter_rst hh, if_pos ⟨hr, rfl⟩]
    exact holdsBuffer_resetWith s.cfgBypass
  · have hnofall : ¬(s.rst = true ∧ level = false) := by
      rintro ⟨hr, rfl⟩
      simp [hr] at hlevel
    rwa [bufferAfter_rst hh, if_neg hnofall]
  · rw [bufferAfter, hh]
    exact hs
  · rw [bufferAfter, hh]
    exact hs

end Sys2Proof.Machine
end

section
/-! The commands of the CRC unit one by one (40_crc.md R64 to R66, R70). -/

namespace Sys2Proof.Machine

/-- Settles O27: what CRCINIT answers is its update, and CNT = 0 makes every RAM byte unreadable. -/
theorem crcinitStartsABuffer : Obligations.CrcinitStartsABuffer := by
  refine ⟨decodeOfEncode .crcinit rfl, fun s => ⟨_, rfl, rfl, fun a => memRead_above (Nat.zero_le a)⟩,
    fun w hw hop => ?_, fun cfg => rfl, fun s hf => accept_of_fault hf⟩
  exact (decode_eq_illegal_iff (i := .crcinit) hop).mpr (.inl fun hzero => hw ((eq_match_iff hop).mpr hzero))

/-- Settles O28: the update of PUSH, and its RAM byte by byte from `ramAfterPush_get`. -/
theorem pushFeedsOneByte : Obligations.PushFeedsOneByte :=
  fun b s => ⟨encode_push b, _, rfl, rfl, ramAfterPush_get s b⟩

/-- The comparison of CHECK on numbers: the newer byte of the delay line is the high one (R39, R66). -/
theorem trailerMatches_iff (s : State) :
    trailerMatches s = true ↔ s.crc.toNat = s.dl1.toNat * 256 + s.dl0.toNat := by
  rw [trailerMatches, beq_iff_eq, ← trailer_toNat, BitVec.toNat_inj]

theorem exec_check_bypass {s : State} (hb : s.bypass = true) : exec .check s = .next (setResult true s) := by
  rw [exec_check_result (by simp [hb]), hb, Bool.true_or]

theorem exec_check_long {s : State} (hb : s.bypass = false) (hlong : 2 ≤ s.cnt.toNat) :
    exec .check s = .next (setResult (trailerMatches s) s) := by
  rw [exec_check_result fun _ => hlong, hb, Bool.false_or]

/-- CHECK writes nothing it reads, so repeating it changes nothing (R66). -/
theorem exec_check_idem {s t : State} (h : exec .check s = .next t) : exec .check t = .next t := by
  rcases exec_check_cases h with ⟨hb, hshort, rfl⟩ | ⟨hlong, rfl⟩
  · exact exec_check_short (s := raiseFault .short 0x30000000#32 s) hb hshort
  · exact exec_check_result (s := setResult (s.bypass || trailerMatches s) s) hlong

/-- Settles O29: CHECK under bypass, on a short buffer and on a long one. -/
theorem checkComparesTheTrailer : Obligations.CheckComparesTheTrailer := by
  refine ⟨decodeOfEncode .check rfl, fun s => ⟨exec_check_bypass, exec_check_short, fun hb hlong => ?_,
    fun t => exec_check_idem⟩⟩
  have hmatch := Bool.eq_iff_iff.mpr ((trailerMatches_iff s).trans decide_eq_true_iff.symm)
  rw [exec_check_long hb hlong, hmatch]
  rfl

/-- Settles O30: the comparison reads DL1 as the high byte, so a CRC that has DL0 there agrees only when the two are
equal. -/
theorem swappedTrailerMatchesOnlyIfEqual : Obligations.SwappedTrailerMatchesOnlyIfEqual := by
  intro s hb hlong hswapped
  refine ⟨_, exec_check_long hb hlong, rfl, ?_⟩
  have hlow := s.dl0.isLt
  have hhigh := s.dl1.isLt
  rw [setResult_matchFlag, trailerMatches_iff, hswapped, ← BitVec.toNat_inj]
  omega

end Sys2Proof.Machine
end

section
/-! The running CRC as a function of the bytes: it is the source's, it is one-to-one in each byte, and the trailer it
gives validates (40_crc.md R61 to R63, R68, R69). -/

namespace Sys2Proof.Machine

/-- Settles O31: one shift agrees with the source's, hence the step and the fold do. -/
theorem crcStepIsTheSourceAlgorithm : Obligations.CrcStepIsTheSourceAlgorithm := ⟨crcStep_toNat, crcFold_toNat⟩

theorem crcShift_eq (c : BitVec 16) :
    crcShift c = (c >>> 1) ^^^ (if c.getLsbD 0 then Config.crcPoly else 0#16) := by
  unfold crcShift
  split
  · rfl
  · exact BitVec.xor_zero.symm

/-- The bit a shift drops comes back at the top: the polynomial constant has its highest bit set (R62). -/
theorem crcShift_msb (c : BitVec 16) : (crcShift c).msb = c.getLsbD 0 := by
  rw [crcShift_eq, BitVec.msb_xor, BitVec.msb_ushiftRight]
  cases c.getLsbD 0 <;> rfl

theorem eq_of_ushiftRight_one_eq {c c' : BitVec 16} (hlow : c.getLsbD 0 = c'.getLsbD 0) (h : c >>> 1 = c' >>> 1) :
    c = c' := by
  refine BitVec.eq_of_getLsbD_eq fun k _ => ?_
  cases k with
  | zero => exact hlow
  | succ k => simpa [Nat.add_comm] using congrArg (fun x => x.getLsbD k) h

theorem crcShift_injective : Function.Injective crcShift := by
  intro c c' h
  have hlow : c.getLsbD 0 = c'.getLsbD 0 := by rw [← crcShift_msb, ← crcShift_msb, h]
  rw [crcShift_eq, crcShift_eq, hlow] at h
  exact eq_of_ushiftRight_one_eq hlow ((BitVec.xor_left_inj _).mp h)

theorem crcShifts_injective (n : Nat) : Function.Injective (crcShifts n) := by
  induction n with
  | zero => exact Function.injective_id
  | succ n ih => exact ih.comp crcShift_injective

/-- For one byte, the step is one-to-one in the register. -/
theorem crcStep_injective_left (b : Byte) : Function.Injective fun c => crcStep c b := fun _ _ h =>
  (BitVec.xor_left_inj _).mp (crcShifts_injective 8 h)

theorem setWidth_byte_injective : Function.Injective (BitVec.setWidth (w := 8) 16) :=
  Function.LeftInverse.injective (g := BitVec.setWidth 8) fun b => by simp

/-- For one register value, the step is one-to-one in the byte. -/
theorem crcStep_injective_right (c : BitVec 16) : Function.Injective (crcStep c) := fun _ _ h =>
  setWidth_byte_injective ((BitVec.xor_right_inj _).mp (crcShifts_injective 8 h))

theorem crcFold_injective (bytes : List Byte) : Function.Injective fun c => crcFold c bytes := by
  induction bytes with
  | nil => exact Function.injective_id
  | cons b rest ih => exact ih.comp (crcStep_injective_left b)

/-- A change of one byte changes the register there, and the bytes after it keep the two apart. -/
theorem crcFold_ne_of_byte_ne (c : BitVec 16) (before after : List Byte) {b b' : Byte} (h : b ≠ b') :
    crcFold c (before ++ b :: after) ≠ crcFold c (before ++ b' :: after) := by
  rw [crcFold_append, crcFold_append, crcFold_cons, crcFold_cons]
  exact (crcFold_injective after).ne ((crcStep_injective_right _).ne h)

/-- A payload and a trailer, low byte first, validate exactly when the trailer is the payload's CRC (R39, R61). -/
theorem computeOrCheck_append_trailer (payload : List Byte) (lo hi : Byte) :
    computeOrCheck (payload ++ [lo, hi]) = true ↔
      (crcFold Config.crcInit payload).toNat = hi.toNat * 256 + lo.toNat := by
  simp [computeOrCheck, byteAt, crcFold_toNat]

/-- Settles O32, from the step being one-to-one in the byte and in the register. -/
theorem oneByteChangeIsDetected : Obligations.OneByteChangeIsDetected := by
  refine ⟨fun c before after b b' => crcFold_ne_of_byte_ne c before after, fun before after b b' lo hi h hgood => ?_⟩
  have hne := crcFold_ne_of_byte_ne Config.crcInit before after h
  rw [Bool.eq_false_iff, ne_eq, computeOrCheck_append_trailer, ← (computeOrCheck_append_trailer _ lo hi).mp hgood,
    BitVec.toNat_inj]
  exact hne.symm

end Sys2Proof.Machine
end

section
/-! Runs from a fresh buffer: the streaming CRC is `compute_or_check`, and the CRC register gives the trailer to send
(40_crc.md R67, R68). -/

namespace Sys2Proof.Machine

theorem holdsBuffer_of_fresh {s : State} (hcrc : s.crc = Config.crcInit) (hcnt : s.cnt = 0#16) : HoldsBuffer s [] :=
  ⟨⟨by rw [hcnt]; rfl, fun _ => nofun⟩, hcrc, nofun, nofun⟩

/-- The pushes of a buffer and CHECK, presented to a block at the start of a buffer, leave MATCH as the source's check,
or 1 under bypass (R66, R67). -/
theorem runSteps_pushes_check {s : State} {bytes : List Byte} {rest : List HostMove} (hs : HoldsBuffer s [])
    (h : Presents s ((bytes.map fun b => encode (.push b)) ++ [encode .check]) rest)
    (hlong : s.bypass = false → 2 ≤ bytes.length) :
    ∃ t, runSteps (bytes.length + 1) s = .next t ∧ t.mvalid = true ∧
      t.matchFlag = (s.bypass || computeOrCheck bytes) := by
  obtain ⟨u, hrun, hpresents, hbuffer, hbypass⟩ := runSteps_pushes bytes h hs
  rw [List.nil_append] at hbuffer
  have ⟨⟨hcnt, _⟩, _⟩ := hbuffer
  have hcount : u.bypass = false → 2 ≤ u.cnt.toNat := fun hb =>
    hcnt ▸ le_min (hlong (hbypass.symm.trans hb)) (by decide)
  have hcheck : step u = .next (setResult (u.bypass || trailerMatches u) (setHost rest u)) :=
    (step_of_presents hpresents rfl).trans (exec_check_result hcount)
  refine ⟨_, by rw [runSteps_add _ 1 hrun, runSteps_succ 0 hcheck, runSteps], rfl, ?_⟩
  rw [setResult_matchFlag, hbypass]
  cases hb : s.bypass
  · rw [trailerMatches_of_holdsBuffer hbuffer (hlong hb)]
  · rfl

/-- Settles O33: the runs of `runSteps_pushes` and `runSteps_pushes_check`, the conclusion of the first read off
`HoldsBuffer`. -/
theorem streamingCrcEqualsSource : Obligations.StreamingCrcEqualsSource := by
  refine ⟨fun s bytes rest hcrc hcnt h => ?_, fun s bytes rest hcrc hcnt h => ⟨fun hlong hb => ?_, fun hb => ?_⟩,
    fun s t h => ?_, fun cfg => ⟨rfl, rfl⟩⟩
  · rw [← List.append_nil (bytes.map _)] at h
    obtain ⟨t, hrun, ⟨-, hfault, hhost⟩, ⟨⟨hcount, hram⟩, hfold, hd0, hd1⟩, -⟩ :=
      runSteps_pushes bytes h (holdsBuffer_of_fresh hcrc hcnt)
    rw [List.nil_append] at hcount hram hfold hd0 hd1
    refine ⟨t, hrun, hhost, hfault, hcount, fun hlong => ⟨hfold, hd0 hlong, hd1 (by omega)⟩,
      fun hone => ⟨?_, ?_⟩, fun hnone => ?_, hram⟩
    · rw [hfold, hone]; rfl
    · simpa [hone] using hd1 (by omega)
    · rw [hfold, hnone]; rfl
  · obtain ⟨t, hrun, hvalid, hmatch⟩ := runSteps_pushes_check (holdsBuffer_of_fresh hcrc hcnt) h fun _ => hlong
    exact ⟨t, hrun, hvalid, by rw [hmatch, hb, Bool.false_or]⟩
  · obtain ⟨t, hrun, hvalid, hmatch⟩ :=
      runSteps_pushes_check (holdsBuffer_of_fresh hcrc hcnt) h (by simp [hb])
    exact ⟨t, hrun, hvalid, by rw [hmatch, hb, Bool.true_or]⟩
  · rw [exec_crcinit_eq h]
    exact ⟨rfl, rfl⟩

/-- Settles O35: after two more bytes CRC is the fold of the payload, and its own two bytes are the trailer that
validates. -/
theorem computesTheTrailerToSend : Obligations.ComputesTheTrailerToSend := by
  refine ⟨fun s payload x y rest h => ?_, fun payload => (computeOrCheck_append_trailer _ _ _).mpr ?_⟩
  · have ⟨_, hfault, _⟩ := h
    rw [← List.append_nil (List.map _ _)] at h
    obtain ⟨t, hrun, -, ⟨-, hfold, -⟩, -⟩ :=
      runSteps_pushes _ (presents_after_exec h rfl hfault) (holdsBuffer_startBuffer _)
    have hcrc : t.crc = crcFold 0xFFFF#16 payload := by simpa using hfold
    refine ⟨t, ?_, hcrc, by rw [← hcrc]; rfl⟩
    rw [runSteps_succ _ (step_of_presents h rfl), ← hrun, List.length_append]
    rfl
  · simp only [Config.crcInit, BitVec.extractLsb'_toNat, Nat.shiftRight_eq_div_pow]
    omega

end Sys2Proof.Machine
end

section
/-! What the scaler commands answer, given what their operand reads give, and when those reads succeed (41_scaler.md R72
to R76). -/

namespace Sys2Proof.Machine

theorem exec_decu32_some {s : State} {off : BitVec 6} {r : Word} (h : readField s off = some r) :
    exec (.decu32 off) s = .next (setRaw r s) := by
  simp only [exec_cases, h, Option.elim_some]

theorem exec_scale_some {s : State} {off : BitVec 6} {r : Word} (h : readField s off = some r) (sc : BitVec 2) :
    exec (.scale off sc) s = .next (setScaled r (magnitude r) sc s) := by
  simp only [exec_cases, h, Option.elim_some]

theorem exec_spow_some {s : State} {off soff : BitVec 6} {r : Word} {f : Byte} (h : readField s off = some r)
    (hf : readSign s soff = some f) (sc : BitVec 2) :
    exec (.spow off soff sc) s = .next (setScaled r (signedMantissa r f) sc s) := by
  simp only [exec_cases, h, hf, Option.elim_some]

theorem exec_decu32_none {s : State} {off : BitVec 6} (h : readField s off = none) :
    exec (.decu32 off) s = .next (raiseFault .unwritten (encode (.decu32 off)) s) := by
  simp only [exec_cases, h, Option.elim_none]

theorem exec_scale_none {s : State} {off : BitVec 6} (h : readField s off = none) (sc : BitVec 2) :
    exec (.scale off sc) s = .next (raiseFault .unwritten (encode (.scale off sc)) s) := by
  simp only [exec_cases, h, Option.elim_none]

theorem exec_spow_none {s : State} {off soff : BitVec 6} (h : readField s off = none ∨ readSign s soff = none)
    (sc : BitVec 2) :
    exec (.spow off soff sc) s = .next (raiseFault .unwritten (encode (.spow off soff sc)) s) := by
  rcases h with hfield | hsign
  · simp only [exec_cases, hfield, Option.elim_none]
  · cases hfield : readField s off <;> simp only [exec_cases, hfield, hsign, Option.elim_none, Option.elim_some]

/-- A filled RAM gives every field below the readable length (R36, R72). -/
theorem readField_of_ramFilled {s : State} {off : BitVec 6} (hs : RamFilled s) (hoff : off.toNat + 4 ≤ readableLen s) :
    ∃ r, readField s off = some r := by
  obtain ⟨b0, -, h0⟩ := memRead_of_ramFilled hs (a := off.toNat) (by omega)
  obtain ⟨b1, -, h1⟩ := memRead_of_ramFilled hs (a := off.toNat + 1) (by omega)
  obtain ⟨b2, -, h2⟩ := memRead_of_ramFilled hs (a := off.toNat + 2) (by omega)
  obtain ⟨b3, -, h3⟩ := memRead_of_ramFilled hs (a := off.toNat + 3) (by omega)
  exact ⟨_, readField_eq_some.mpr ⟨hoff, b0, b1, b2, b3, h0, h1, h2, h3, rfl⟩⟩

theorem readSign_of_ramFilled {s : State} {soff : BitVec 6} (hs : RamFilled s) (hsoff : soff.toNat < readableLen s) :
    ∃ f, readSign s soff = some f := by
  obtain ⟨f, -, hf⟩ := memRead_of_ramFilled hs hsoff
  exact ⟨f, readSign_eq_some.mpr ⟨hsoff, hf⟩⟩

/-- Settles O39: a read past the readable length gives none, and a filled RAM gives every read below it. -/
theorem unwrittenOperandsFault : Obligations.UnwrittenOperandsFault := by
  refine ⟨fun s off hshort => ?_, fun s off soff sc hshort => ?_, fun s off hs hoff => ?_⟩
  · have hfield := readField_none hshort
    exact ⟨exec_decu32_none hfield, exec_scale_none hfield, fun soff => exec_spow_none (.inl hfield)⟩
  · exact exec_spow_none (.inr (readSign_none (Nat.lt_succ_iff.mp hshort))) sc
  · obtain ⟨r, hr⟩ := readField_of_ramFilled hs hoff
    refine ⟨⟨_, exec_decu32_some hr, rfl⟩, fun sc => ⟨_, exec_scale_some hr sc, rfl⟩, fun soff sc hsoff => ?_⟩
    obtain ⟨f, hf⟩ := readSign_of_ramFilled hs hsoff
    exact ⟨_, exec_spow_some hr hf sc, rfl⟩

end Sys2Proof.Machine
end

section
/-! The words of the scaler commands, as the rules print them (30_encoding.md R49; 41_scaler.md R74 to R76). -/

namespace Sys2Proof

/-- The fields of format C32 lie in bit ranges that do not meet (R49). -/
theorem fieldWord_eq_or (op : BitVec 4) (sc : BitVec 2) (soff off : BitVec 6) :
    fieldWord op sc soff off =
      op.setWidth 32 <<< 28 ||| sc.setWidth 32 <<< 16 ||| soff.setWidth 32 <<< 8 ||| off.setWidth 32 := by
  refine BitVec.eq_of_getLsbD_eq fun k hk => ?_
  rw [fieldWord, BitVec.getLsbD_append, BitVec.getLsbD_append, BitVec.getLsbD_append, BitVec.getLsbD_append,
    BitVec.getLsbD_append, BitVec.getLsbD_append]
  interval_cases k <;> simp

theorem encode_decu32 (off : BitVec 6) : encode (.decu32 off) = 0x40000000#32 ||| off.setWidth 32 :=
  fieldWord_eq_or 4#4 0#2 0#6 off

theorem encode_scale (off : BitVec 6) (sc : BitVec 2) :
    encode (.scale off sc) = 0x50000000#32 ||| sc.setWidth 32 <<< 16 ||| off.setWidth 32 := by
  rw [encode, fieldWord_eq_or]
  simp

theorem encode_spow (off soff : BitVec 6) (sc : BitVec 2) :
    encode (.spow off soff sc) =
      0x60000000#32 ||| sc.setWidth 32 <<< 16 ||| soff.setWidth 32 <<< 8 ||| off.setWidth 32 :=
  fieldWord_eq_or 6#4 sc soff off

end Sys2Proof
end

section
/-! The numbers DECU32, SCALE and SPOW write (41_scaler.md R73 to R77, R81). -/

namespace Sys2Proof.Machine

/-- The test of R73 on numbers. -/
theorem negates_iff (r : Word) (f : Byte) : negates r f = true ↔ f.toNat = 1 ∧ r.toNat ≠ 0 := by
  simp only [negates, Bool.and_eq_true, beq_iff_eq, bne_iff_ne, ne_eq, ← BitVec.toNat_inj]
  rfl

theorem signedMantissa_toInt_ite (r : Word) (f : Byte) :
    (signedMantissa r f).toInt = if f.toNat = 1 ∧ r.toNat ≠ 0 then -(r.toNat : Int) else (r.toNat : Int) := by
  simp only [signedMantissa_toInt, negates_iff]

theorem scaledValue_setScaled (r : Word) (n : BitVec 64) (sc : BitVec 2) (s : State) :
    scaledValue (setScaled r n sc s) = (n.toInt : Rat) / 10 ^ (4 - sc.toNat) := rfl

/-- Settles O40: DECU32 on the four bytes it reads, and the row of op 4. -/
theorem decu32ReadsTheField : Obligations.Decu32ReadsTheField := by
  refine ⟨fun s off b0 b1 b2 b3 hoff h0 h1 h2 h3 => ?_, fun s off hshort => exec_decu32_none (readField_none hshort),
    encode_decu32, fun w hop => ?_⟩
  · have hr := readField_eq_some.mpr ⟨hoff, b0, b1, b2, b3, h0, h1, h2, h3, rfl⟩
    exact ⟨_, assembleBe_toNat b0 b1 b2 b3, exec_decu32_some hr⟩
  · rw [decode_eq_illegal_iff (i := .decu32 0#6) hop, or_comm]
    simp [Instr.wellFormed, offOk]

/-- Settles O41: SCALE on the four bytes it reads, and the row of op 5. -/
theorem scaleWritesTheMantissa : Obligations.ScaleWritesTheMantissa := by
  refine ⟨fun s off sc b0 b1 b2 b3 hoff h0 h1 h2 h3 => ?_,
    fun s off sc hshort => exec_scale_none (readField_none hshort) sc, encode_scale, fun w hop => ?_⟩
  · have hr := readField_eq_some.mpr ⟨hoff, b0, b1, b2, b3, h0, h1, h2, h3, rfl⟩
    refine ⟨_, _, assembleBe_toNat b0 b1 b2 b3, magnitude_toInt _, exec_scale_some hr sc, ?_⟩
    exact (scaledValue_setScaled _ _ sc s).trans (by rw [magnitude_toInt, Int.cast_natCast])
  · rw [decode_eq_illegal_iff (i := .scale 0#6 0#2) hop, or_comm]
    simp [Instr.wellFormed, offOk, scOk, imp_iff_not_or, or_assoc]

/-- Settles O42: SPOW on the five bytes it reads, and the row of op 6. -/
theorem spowAppliesTheSign : Obligations.SpowAppliesTheSign := by
  refine ⟨fun s off soff sc b0 b1 b2 b3 f hoff hsoff h0 h1 h2 h3 hf => ?_,
    fun s off soff sc hshort => exec_spow_none (hshort.imp readField_none readSign_none) sc, encode_spow,
    fun w hop => ?_⟩
  · have hr := readField_eq_some.mpr ⟨hoff, b0, b1, b2, b3, h0, h1, h2, h3, rfl⟩
    have hsign := readSign_eq_some.mpr ⟨hsoff, hf⟩
    exact ⟨_, _, assembleBe_toNat b0 b1 b2 b3, signedMantissa_toInt_ite _ f, exec_spow_some hr hsign sc,
      scaledValue_setScaled _ _ sc s⟩
  · rw [decode_eq_illegal_iff (i := .spow 0#6 0#6 0#2) hop, or_comm]
    simp [Instr.wellFormed, offOk, scOk, imp_iff_not_or, or_assoc]

/-- The high word of a mantissa in range repeats its sign (R81). -/
theorem high_word_of_inRange {n : BitVec 64} (hn : -(2 ^ 32 - 1) ≤ n.toInt ∧ n.toInt ≤ 2 ^ 32 - 1) :
    n.extractLsb' 32 32 = if n.toInt < 0 then 0xFFFFFFFF#32 else 0#32 := by
  have hlt := n.isLt
  have hhigh : (n.extractLsb' 32 32).toNat = n.toNat / 2 ^ 32 := by
    rw [BitVec.extractLsb'_toNat, Nat.shiftRight_eq_div_pow]
    omega
  have hcond := BitVec.toInt_eq_toNat_cond n
  refine BitVec.eq_of_toNat_eq (hhigh.trans ?_)
  split
  · show n.toNat / 2 ^ 32 = 0xFFFFFFFF
    split at hcond <;> omega
  · show n.toNat / 2 ^ 32 = 0
    split at hcond <;> omega

/-- Without a fault SCALE writes the magnitude of a field to OUTN (R75). -/
theorem exec_scale_outn {off : BitVec 6} {sc : BitVec 2} {s t : State} (h : exec (.scale off sc) s = .next t)
    (ht : t.fault = false) : ∃ r, t.outn = magnitude r := by
  rcases exec_scale_cases h with ⟨-, rfl⟩ | ⟨r, -, rfl⟩
  · cases ht
  · exact ⟨r, rfl⟩

theorem exec_spow_outn {off soff : BitVec 6} {sc : BitVec 2} {s t : State} (h : exec (.spow off soff sc) s = .next t)
    (ht : t.fault = false) : ∃ r f, t.outn = signedMantissa r f := by
  rcases exec_spow_cases h with ⟨-, rfl⟩ | ⟨r, f, -, -, rfl⟩
  · cases ht
  · exact ⟨r, f, rfl⟩

/-- Settles O44: the mantissas the two commands write are in range, and the high word follows from the range. -/
theorem mantissaRange : Obligations.MantissaRange := by
  intro s t off soff sc _ ht
  refine ⟨fun h => ?_, fun h => ?_, fun h => high_word_of_inRange ?_⟩
  · obtain ⟨r, hn⟩ := exec_scale_outn h ht
    rw [hn, magnitude_toInt]
    omega
  · obtain ⟨r, f, hn⟩ := exec_spow_outn h ht
    exact hn ▸ signedMantissa_inRange r f
  · rcases h with h | h
    · obtain ⟨r, hn⟩ := exec_scale_outn h ht
      exact hn ▸ magnitude_inRange r
    · obtain ⟨r, f, hn⟩ := exec_spow_outn h ht
      exact hn ▸ signedMantissa_inRange r f

end Sys2Proof.Machine
end

section
/-! On a block that holds a frame the scaler commands are the source's decoding functions (41_scaler.md R71, R74,
R77). -/

namespace Sys2Proof.Machine

theorem readableLen_of_holds {s : State} {frame : List Byte} (h : Holds s frame) :
    readableLen s = min frame.length 64 := by
  obtain ⟨hcnt, -⟩ := h
  simp only [readableLen, hcnt, Config.cntMax, Config.ramSize]
  omega

theorem ram_get_of_holds {s : State} {frame : List Byte} (h : Holds s frame) {i : Nat}
    (hi : i < min frame.length 64) : s.ram.get i = some (frame.getD i 0#8) := by
  obtain ⟨-, hram⟩ := h
  rw [hram i hi, List.getD_eq_getElem?_getD, List.getElem?_eq_getElem (by omega), Option.getD_some]

/-- The field the block reads is the number `decode_u32` computes (R71). -/
theorem readField_of_holds {s : State} {frame : List Byte} {off : BitVec 6} (h : Holds s frame)
    (hoff : off.toNat + 4 ≤ min frame.length 64) :
    ∃ r, readField s off = some r ∧ r.toNat = decodeU32 frame off.toNat := by
  refine ⟨_, readField_eq_some.mpr ⟨(readableLen_of_holds h).symm ▸ hoff, _, _, _, _, ram_get_of_holds h (by omega),
    ram_get_of_holds h (by omega), ram_get_of_holds h (by omega), ram_get_of_holds h (by omega), rfl⟩, ?_⟩
  rw [assembleBe_toNat]
  simp only [decodeU32, byteAt]
  omega

theorem readSign_of_holds {s : State} {frame : List Byte} {soff : BitVec 6} (h : Holds s frame)
    (hsoff : soff.toNat < min frame.length 64) :
    ∃ f, readSign s soff = some f ∧ f.toNat = byteAt frame soff.toNat :=
  ⟨_, readSign_eq_some.mpr ⟨(readableLen_of_holds h).symm ▸ hsoff, ram_get_of_holds h hsoff⟩, rfl⟩

/-- A legal scale code has the factor 10^-(4 - sc) (R53). -/
theorem scaleFactor_eq {sc : BitVec 2} (h : sc ≠ 3#2) : scaleFactor sc = 1 / 10 ^ (4 - sc.toNat) := by
  unfold scaleFactor
  split_ifs with h0 h1 h2
  · norm_num [h0]
  · norm_num [h1]
  · norm_num [h2]
  · bv_omega

theorem div_pow_eq_mul_scaleFactor {sc : BitVec 2} (h : sc ≠ 3#2) (x : Rat) :
    x / 10 ^ (4 - sc.toNat) = x * scaleFactor sc := by
  rw [scaleFactor_eq h, mul_one_div]

theorem scaleFactor_pos {sc : BitVec 2} (h : sc ≠ 3#2) : 0 < scaleFactor sc := by
  rw [scaleFactor_eq h]
  positivity

/-- The scaled value is positive exactly when the field is not 0, so R73's test is the source's. -/
theorem decodeScaled_pos_iff (frame : List Byte) (off : Nat) {sc : BitVec 2} (h : sc ≠ 3#2) :
    decodeScaled frame off (scaleFactor sc) > 0 ↔ decodeU32 frame off ≠ 0 := by
  rw [decodeScaled, gt_iff_lt, mul_pos_iff_of_pos_right (scaleFactor_pos h), Nat.cast_pos, Nat.pos_iff_ne_zero]

/-- SPOW's signed mantissa, scaled, is the source's signed power (R71, R73). -/
theorem signedMantissa_scaled {frame : List Byte} {off soff : Nat} {sc : BitVec 2} {r : Word} {f : Byte}
    (hsc : sc ≠ 3#2) (hr : r.toNat = decodeU32 frame off) (hf : f.toNat = byteAt frame soff) :
    ((signedMantissa r f).toInt : Rat) / 10 ^ (4 - sc.toNat) = decodeSignedPower frame off soff (scaleFactor sc) := by
  rw [div_pow_eq_mul_scaleFactor hsc, signedMantissa_toInt_ite, hr, hf]
  simp only [decodeSignedPower, decodeScaled_pos_iff frame off hsc]
  split
  · rw [Int.cast_neg, Int.cast_natCast, neg_mul, decodeScaled]
  · rw [Int.cast_natCast, decodeScaled]

/-- Settles O43: the operand reads are the source's bytes, and each result is the source's function of them. -/
theorem scalerRefinesSource : Obligations.ScalerRefinesSource := by
  intro s frame off soff sc hs hoff hsc
  obtain ⟨r, hr, hnum⟩ := readField_of_holds hs hoff
  refine ⟨⟨_, exec_decu32_some hr, hnum⟩, ⟨_, exec_scale_some hr sc, hnum, ?_⟩, fun hsoff => ?_⟩
  · rw [scaledValue_setScaled, magnitude_toInt, Int.cast_natCast, hnum, div_pow_eq_mul_scaleFactor hsc, decodeScaled]
  · obtain ⟨f, hf, hbyte⟩ := readSign_of_holds hs hsoff
    exact ⟨_, exec_spow_some hr hf sc, hnum,
      (scaledValue_setScaled r _ sc s).trans (signedMantissa_scaled hsc hnum hbyte)⟩

/-- The four bytes of a word, most significant first. -/
def bytesBe (x : Word) : List Byte := [x.extractLsb' 24 8, x.extractLsb' 16 8, x.extractLsb' 8 8, x.extractLsb' 0 8]

theorem decodeU32_bytesBe (x : Word) : decodeU32 (bytesBe x) 0 = x.toNat := by
  have hlt := x.isLt
  simp only [decodeU32, byteAt, bytesBe, List.getD_cons_zero, List.getD_cons_succ, BitVec.extractLsb'_toNat,
    Nat.shiftRight_eq_div_pow]
  omega

/-- Settles O48: after CRCINIT and the four pushes the block holds the bytes of `x`, and DECU32 reads what `decode_u32`
computes from them. -/
theorem fieldRoundTrip : Obligations.FieldRoundTrip := by
  intro s x rest h
  have ⟨_, hfault, _⟩ := h
  obtain ⟨u, hrun, hpresents, ⟨hholds, -⟩, -⟩ := runSteps_pushes (bytesBe x) (words := [encode (.decu32 0#6)])
    (presents_after_exec h rfl hfault) (holdsBuffer_startBuffer _)
  obtain ⟨r, hr, hnum⟩ := readField_of_holds (s := setHost rest u) (off := 0#6) hholds (show 4 ≤ min 4 64 by decide)
  have hdecode : step u = .next (setRaw r (setHost rest u)) :=
    (step_of_presents hpresents rfl).trans (exec_decu32_some hr)
  refine ⟨setRaw r (setHost rest u), ?_, ?_, ?_⟩
  · exact (runSteps_succ 5 (step_of_presents h rfl)).trans ((runSteps_add 4 1 hrun).trans (runSteps_succ 0 hdecode))
  · exact BitVec.eq_of_toNat_eq (hnum.trans (decodeU32_bytesBe x))
  · have ⟨_, hclear, _⟩ := hpresents
    exact hclear

end Sys2Proof.Machine
end

section
/-! The step of the machine: what an accepted word writes, when the step stops, and the host's protocol along a run
(42_system.md R86, R87; 60_exceptions.md R96; 70_reset_and_hazards.md R105). -/

namespace Sys2Proof.Machine

/-- Every step has a next state, unless the host presents a command while RST is high (R86, R96; log entry 3). -/
theorem step_next_or_breach (s : State) :
    (∃ t, step s = .next t) ∨ (s.rst = true ∧ ∃ w rest, s.host = .command w :: rest) := by
  cases hh : s.host with
  | nil => exact .inl ⟨_, step_idle hh⟩
  | cons m rest =>
    cases m with
    | command w =>
      cases hr : s.rst with
      | true => exact .inr ⟨rfl, w, rest, rfl⟩
      | false =>
        rw [step_command hh hr]
        exact .inl (accept_next w (setHost rest s))
    | rst level => exact .inl ⟨_, step_rst hh⟩
    | cfgBypass level => exact .inl ⟨_, step_cfgBypass hh⟩
    | rdsel sel => exact .inl ⟨_, step_rdsel hh⟩

/-- An accepted word leaves the RST pin and the host's later moves alone. -/
theorem accept_rst_host {w : Word} {s t : State} (h : accept w s = .next t) : t.rst = s.rst ∧ t.host = s.host := by
  rcases accept_cases h with ⟨-, rfl⟩ | ⟨-, -, rfl⟩ | ⟨-, i, -, hexec⟩
  · exact ⟨rfl, rfl⟩
  · exact ⟨rfl, rfl⟩
  · exact exec_rst_host hexec

/-- A step takes the first of the host's moves, and leaves RST at the level that move drives it to. -/
theorem step_keepsProtocol {s t : State} (hs : keepsProtocol s.rst s.host = true) (h : step s = .next t) :
    keepsProtocol t.rst t.host = true := by
  rcases step_cases h with ⟨-, rfl⟩ | ⟨w, rest, hh, hr, haccept⟩ | ⟨rest, hh, -, rfl⟩ | ⟨level, rest, hh, -, rfl⟩ |
    ⟨level, rest, hh, rfl⟩ | ⟨sel, rest, hh, rfl⟩
  · exact hs
  · obtain ⟨hrst, hhost⟩ := accept_rst_host haccept
    rw [hrst, hhost, setHost_rst, setHost_host, hr]
    rwa [hh, hr] at hs
  all_goals rwa [hh] at hs

/-- Settles O53: the protocol excludes the breach of `step_next_or_breach`, and every case of a step keeps it. -/
theorem protocolIsKeptByEveryStep : Obligations.ProtocolIsKeptByEveryStep := by
  intro s hs
  rcases step_next_or_breach s with ⟨t, ht⟩ | ⟨hr, w, rest, hh⟩
  · exact ⟨t, ht, step_keepsProtocol hs ht⟩
  · simp [hr, hh, keepsProtocol] at hs

/-- Settles O18, by induction on the number of steps: each answers a next state from which the protocol still holds. -/
theorem protocolKeepsTheMachineRunning : Obligations.ProtocolKeepsTheMachineRunning := by
  intro n
  induction n with
  | zero => exact fun s _ => ⟨s, rfl⟩
  | succ n ih =>
    intro s hs
    obtain ⟨t, hstep, ht⟩ := protocolIsKeptByEveryStep s hs
    rw [runSteps_succ n hstep]
    exact ih t ht

/-- Settles O17: a command in reset stops the step, no other move does, and a step has no third answer. -/
theorem stopsOnlyOnProtocolBreach : Obligations.StopsOnlyOnProtocolBreach := by
  intro s
  have hstop : (s.rst = true ∧ ∃ w rest, s.host = .command w :: rest) → step s = .fault .portNotReady :=
    fun ⟨hr, _, _, hh⟩ => step_command_in_reset hh hr
  exact ⟨⟨step_fault, hstop⟩, (step_next_or_breach s).imp_right hstop⟩

/-- Settles O1: with RST low the step is `accept`, and with no fault taken that is the command's own rule. -/
theorem stepRunsTheDecodedCommand : Obligations.StepRunsTheDecodedCommand := by
  intro s w rest i hh hr hf hd
  rw [step_command hh hr]
  exact accept_command hf hd

/-- An accepted word that takes a fault writes the fault record alone, and records itself (R87, R91). -/
theorem accept_fault_writes {w : Word} {s t : State} (hf : s.fault = false) (h : accept w s = .next t)
    (ht : t.fault = true) : t = { s with fault := true, fcode := t.fcode, fcmd := w } := by
  rcases accept_cases h with ⟨hf', -⟩ | ⟨-, -, rfl⟩ | ⟨-, i, hd, hexec⟩
  · simp [hf] at hf'
  · rfl
  · have hcmd : t.fcmd = w := by
      rcases exec_fault_record hexec with ⟨hkept, -, -⟩ | ⟨-, -, hcmd⟩
      · simp [hkept, hf] at ht
      · rw [hcmd, encode_of_decode hd]
    have hwrites := exec_fault_writes hf hexec ht
    rwa [ht, hcmd] at hwrites

/-- From a faulted block a step moves the host's pins only, unless it is the fall of RST (R87, R94). -/
theorem step_of_fault {s t : State} (hf : s.fault = true) (h : step s = .next t) :
    (t = setHost t.host { s with rst := t.rst, cfgBypass := t.cfgBypass, rdsel := t.rdsel }) ∨
    (s.rst = true ∧ ∃ rest, s.host = .rst false :: rest ∧ t = setHost rest (resetEvent s)) := by
  rcases step_cases h with ⟨-, rfl⟩ | ⟨w, rest, -, -, haccept⟩ | ⟨rest, hh, hr, rfl⟩ | ⟨level, rest, -, -, rfl⟩ |
    ⟨level, rest, -, rfl⟩ | ⟨sel, rest, -, rfl⟩
  · exact .inl rfl
  · rw [accept_of_fault (s := setHost rest s) hf] at haccept
    cases haccept
    exact .inl rfl
  · exact .inr ⟨hr, rest, hh, rfl⟩
  all_goals exact .inl rfl

/-- Settles O9: the three cases of `accept`, what a fault writes, and the step of a faulted block. -/
theorem acceptedWordStep : Obligations.AcceptedWordStep := by
  refine ⟨fun w s => accept_of_fault, fun w s => accept_illegal, fun w s i => accept_command, fun w s => ?_,
    fun s t => step_of_fault⟩
  obtain ⟨t, ht⟩ := accept_next w s
  exact ⟨t, ht, fun hf => accept_fault_writes hf ht⟩

end Sys2Proof.Machine
end

section
/-! NOP, and what no command but CRCINIT does to the CRC unit (42_system.md R85). -/

namespace Sys2Proof.Machine

theorem exec_scaler_crc {i : Instr} {s t : State} (hi : IsScaler i) (h : exec i s = .next t) : t.crc = s.crc := by
  obtain ⟨upd, hupd, rfl⟩ := exec_scaler_update hi h
  rcases hupd with rfl | ⟨off, r, -, rfl⟩ | ⟨r, n, sc, rfl⟩ <;> rfl

theorem crcAfterPush_cases (s : State) : crcAfterPush s = s.crc ∨ crcAfterPush s = crcStep s.crc s.dl0 := by
  unfold crcAfterPush
  split
  · exact .inr rfl
  · exact .inl rfl

theorem cnt_le_cntAfterPush (c : BitVec 16) : c.toNat ≤ (cntAfterPush c).toNat := by
  have hlt := c.isLt
  rw [cntAfterPush_toNat]
  omega

/-- Only CRCINIT restarts the CRC unit: under any other command CNT never falls, and CRC moves by the step of PUSH or not
at all (R65, R85). -/
theorem exec_keeps_crcUnit {i : Instr} {s t : State} (hi : i ≠ .crcinit) (h : exec i s = .next t) :
    s.cnt.toNat ≤ t.cnt.toNat ∧ (t.crc = s.crc ∨ (∃ b, i = .push b) ∧ t.crc = crcStep s.crc s.dl0) := by
  have hscaler : IsScaler i → s.cnt.toNat ≤ t.cnt.toNat ∧
      (t.crc = s.crc ∨ (∃ b, i = .push b) ∧ t.crc = crcStep s.crc s.dl0) := fun hsc =>
    ⟨exec_scaler_cnt hsc h ▸ le_rfl, .inl (exec_scaler_crc hsc h)⟩
  cases i with
  | nop => rw [exec_nop_eq h]; exact ⟨le_rfl, .inl rfl⟩
  | crcinit => exact absurd rfl hi
  | push b =>
    rw [exec_push_eq h]
    exact ⟨cnt_le_cntAfterPush s.cnt, (crcAfterPush_cases s).imp_right fun hstep => ⟨⟨b, rfl⟩, hstep⟩⟩
  | check => rcases exec_check_cases h with ⟨-, -, rfl⟩ | ⟨-, rfl⟩ <;> exact ⟨le_rfl, .inl rfl⟩
  | decu32 off => exact hscaler (.inl ⟨off, rfl⟩)
  | scale off sc => exact hscaler (.inr (.inl ⟨off, sc, rfl⟩))
  | spow off soff sc => exact hscaler (.inr (.inr ⟨off, soff, sc, rfl⟩))

/-- No command clears a fault (R85, R94). -/
theorem exec_keeps_fault {i : Instr} {s t : State} (h : exec i s = .next t) (hf : s.fault = true) : t.fault = true := by
  rcases exec_fault_record h with ⟨hkept, -, -⟩ | ⟨htaken, -, -⟩
  · exact hkept.trans hf
  · exact htaken

/-- Settles O26: the word 0 is the only one of NOP's row, and CRCINIT stands apart from `exec_keeps_crcUnit`. -/
theorem nopChangesNothing : Obligations.NopChangesNothing := by
  refine ⟨decodeOfEncode .nop rfl, fun s => rfl, fun w hw hop => ?_, fun s => accept_of_fault, fun i s t h => ?_,
    fun i s t h => ⟨exec_bypass h, exec_keeps_fault h⟩⟩
  · exact (decode_eq_illegal_iff (i := .nop) hop).mpr (.inl fun hzero => hw ((eq_match_iff hop).mpr hzero))
  · split
    · next hi =>
      subst hi
      rw [exec_crcinit_eq h]
      exact ⟨rfl, rfl⟩
    · next hi => exact exec_keeps_crcUnit hi h

end Sys2Proof.Machine
end

section
/-! What an accepted word does to the fault record, and which words fault (60_exceptions.md R89 to R94). -/

namespace Sys2Proof.Machine

/-- An accepted word leaves the fault record alone, or takes a first fault with a code of R89. -/
theorem accept_fault_record {w : Word} {s t : State} (h : accept w s = .next t) :
    (t.fault = s.fault ∧ t.fcode = s.fcode ∧ t.fcmd = s.fcmd) ∨
    (s.fault = false ∧ t.fault = true ∧ (t.fcode = 1#4 ∨ t.fcode = 2#4 ∨ t.fcode = 3#4)) := by
  rcases accept_cases h with ⟨-, rfl⟩ | ⟨hf, -, rfl⟩ | ⟨hf, i, -, hexec⟩
  · exact .inl ⟨rfl, rfl, rfl⟩
  · exact .inr ⟨hf, rfl, .inl rfl⟩
  · exact (exec_fault_record hexec).imp_right fun ⟨htaken, hcode, _⟩ => ⟨hf, htaken, .inr hcode⟩

/-- With a filled RAM a field is unreadable exactly when it does not lie all below the readable length (R72). -/
theorem readField_eq_none_iff {s : State} {off : BitVec 6} (hs : RamFilled s) :
    readField s off = none ↔ readableLen s < off.toNat + 4 := by
  refine ⟨fun hnone => not_le.mp fun hoff => ?_, readField_none⟩
  obtain ⟨r, hr⟩ := readField_of_ramFilled hs hoff
  simp [hr] at hnone

theorem readSign_eq_none_iff {s : State} {soff : BitVec 6} (hs : RamFilled s) :
    readSign s soff = none ↔ readableLen s ≤ soff.toNat := by
  refine ⟨fun hnone => not_lt.mp fun hsoff => ?_, readSign_none⟩
  obtain ⟨f, hf⟩ := readSign_of_ramFilled hs hsoff
  simp [hf] at hnone

/-- Settles O10: the record by `accept_fault_record`; the causes command by command, an operand read being refused
exactly past the readable length. -/
theorem faultCausesAndEntry : Obligations.FaultCausesAndEntry := by
  intro w s t hs h
  refine ⟨fun hf => ?_, fun hkept => ?_, ?_, rfl, fun hf => ?_⟩
  · rw [accept_of_fault hf] at h
    cases h
    rfl
  · rcases accept_fault_record h with ⟨-, hrecord⟩ | ⟨hf, htaken, -⟩
    · exact hrecord
    · simp [hf, htaken] at hkept
  · exact (accept_fault_record h).imp (fun ⟨_, hcode, _⟩ => hcode) fun ⟨_, _, hcode⟩ => hcode
  · cases hd : decode w with
    | illegal =>
      rw [accept_illegal hf hd] at h
      cases h
      rfl
    | command i =>
      rw [accept_command hf hd] at h
      obtain rfl := encode_of_decode hd
      cases i with
      | nop => rw [exec_nop_eq h]; exact hf
      | crcinit => rw [exec_crcinit_eq h]; exact hf
      | push b => rw [exec_push_eq h]; exact hf
      | check =>
        refine ite_prop_iff_or.mpr ?_
        rcases exec_check_cases h with ⟨hb, hshort, rfl⟩ | ⟨hlong, rfl⟩
        · exact .inl ⟨⟨hb, hshort⟩, rfl⟩
        · exact .inr ⟨fun ⟨hb, hshort⟩ => absurd hshort (not_lt.mpr (hlong hb)), hf⟩
      | decu32 off =>
        refine ite_prop_iff_or.mpr ?_
        rcases exec_decu32_cases h with ⟨hnone, rfl⟩ | ⟨r, hr, rfl⟩
        · exact .inl ⟨(readField_eq_none_iff hs).mp hnone, rfl⟩
        · exact .inr ⟨fun hpast => by simp [readField_none hpast] at hr, hf⟩
      | scale off sc =>
        refine ite_prop_iff_or.mpr ?_
        rcases exec_scale_cases h with ⟨hnone, rfl⟩ | ⟨r, hr, rfl⟩
        · exact .inl ⟨(readField_eq_none_iff hs).mp hnone, rfl⟩
        · exact .inr ⟨fun hpast => by simp [readField_none hpast] at hr, hf⟩
      | spow off soff sc =>
        refine ite_prop_iff_or.mpr ?_
        rcases exec_spow_cases h with ⟨hnone, rfl⟩ | ⟨r, f, hr, hsign, rfl⟩
        · exact .inl ⟨hnone.imp (readField_eq_none_iff hs).mp (readSign_eq_none_iff hs).mp, rfl⟩
        · refine .inr ⟨?_, hf⟩
          rintro (hpast | hpast)
          · simp [readField_none hpast] at hr
          · simp [readSign_none hpast] at hsign

/-- Settles O11: a faulted block accepts a word without a change, and `step_of_fault` gives the rest of its moves. -/
theorem quiescentUntilReset : Obligations.QuiescentUntilReset := by
  intro s t hf h
  refine ⟨fun w rest hh => ?_, ?_⟩
  · cases hr : s.rst with
    | true =>
      rw [step_command_in_reset hh hr] at h
      cases h
    | false =>
      rw [step_command hh hr, accept_of_fault (s := setHost rest s) hf] at h
      cases h
      rfl
  · rcases step_of_fault hf h with hpins | ⟨hr, rest, hh, -⟩
    · rw [hpins]
      exact .inl ⟨hf, rfl, rfl⟩
    · exact .inr ⟨hr, rest, hh⟩

end Sys2Proof.Machine
end

section
/-! SUPPORT. Reads of registers among the host's moves change nothing of a run but the RDSEL pin it ends with
(10_state.md R30). -/

namespace Sys2Proof.Machine

theorem isRead_iff {m : HostMove} : isRead m = true ↔ ∃ sel, m = .rdsel sel := by
  cases m <;> simp [isRead]

/-- A move leaves the moves after it as they are. -/
theorem hostMove_host {m : HostMove} {s t : State} (h : hostMove m s = .next t) : t.host = s.host := by
  cases m with
  | command w =>
    simp only [hostMove] at h
    split at h
    · exact (accept_rst_host h).2
    · cases h
  | rst level =>
    cases h
    unfold driveRst
    split <;> rfl
  | cfgBypass level => cases h; rfl
  | rdsel sel => cases h; rfl

/-- A run that ends starts with a step that answers a next state. -/
theorem runSteps_succ_eq_next {n : Nat} {s t : State} (h : runSteps (n + 1) s = .next t) :
    ∃ u, step s = .next u ∧ runSteps n u = .next t := by
  cases hs : step s with
  | next u => exact ⟨u, rfl, by rwa [runSteps_succ n hs] at h⟩
  | fault r => simp [runSteps, hs] at h
  | refused r => simp [runSteps, hs] at h

/-- Reads put among the moves of a run change nothing of the state it ends in but the RDSEL pin (R30). -/
theorem runSteps_insert_reads (made rest : List HostMove) {s t : State} (sel : BitVec 3)
    (hrun : runSteps (made.filter fun m => !isRead m).length
      (setHost ((made.filter fun m => !isRead m) ++ rest) s) = .next t) :
    ∃ sel', runSteps made.length (setRdsel sel (setHost (made ++ rest) s)) = .next (setRdsel sel' t) := by
  induction made generalizing s sel with
  | nil =>
    cases hrun
    exact ⟨sel, rfl⟩
  | cons m made ih =>
    cases hread : isRead m with
    | true =>
      obtain ⟨sel', rfl⟩ := isRead_iff.mp hread
      exact ih (s := s) sel' hrun
    | false =>
      rw [List.filter_cons_of_pos (by simp [hread])] at hrun
      obtain ⟨u, hstep, hrun⟩ := runSteps_succ_eq_next hrun
      have hmove : hostMove m (setHost ((made.filter fun m => !isRead m) ++ rest) s) = .next u := hstep
      have hhost : u.host = (made.filter fun m => !isRead m) ++ rest := hostMove_host hmove
      have hnoread : ∀ sel', m ≠ .rdsel sel' := fun sel' hm => by simp [hm, isRead] at hread
      have hpins : step (setRdsel sel (setHost (m :: made ++ rest) s)) =
          .next (setRdsel sel (setHost (made ++ rest) u)) := hostMove_pins hnoread hmove sel (made ++ rest)
      obtain ⟨sel', hend⟩ := ih (s := u) sel (by rwa [← hhost])
      exact ⟨sel', (runSteps_succ _ hpins).trans hend⟩

theorem runSteps_of_presentsWithReads {s t : State} {moves made rest : List HostMove}
    (h : PresentsWithReads s moves made rest) (hrun : runSteps moves.length (setHost (moves ++ rest) s) = .next t) :
    ∃ sel, runSteps made.length s = .next (setRdsel sel t) := by
  obtain ⟨-, -, rfl, hhost⟩ := h
  have hs : setRdsel s.rdsel (setHost (made ++ rest) s) = s := hhost ▸ rfl
  have hreads := runSteps_insert_reads made rest s.rdsel hrun
  rwa [hs] at hreads

end Sys2Proof.Machine
end

section
/-! The parts of a session that keeps its duties: each reset with CFG_BYPASS and each frame read runs to its end without
a fault (60_exceptions.md R95, R96; 70_reset_and_hazards.md R105, R107 to R110). -/

namespace Sys2Proof.Machine

/-- The reset of a session, from any block (R105, R107). -/
theorem runSteps_configure {s : State} {level : Bool} {rest : List HostMove}
    (h : s.host = .rst true :: .cfgBypass level :: .rst false :: rest) :
    ∃ t, runSteps 3 s = .next t ∧ Presents t [] rest ∧ t.bypass = level := by
  have hrise := step_rst_pin h (.inr rfl)
  have hpin := step_cfgBypass (s := setRst true (setHost (.cfgBypass level :: .rst false :: rest) s)) rfl
  have hfall := step_fall (s := setCfgBypass level (setHost (.rst false :: rest) (setRst true s))) rfl rfl
  exact ⟨_, (runSteps_succ 2 hrise).trans ((runSteps_succ 1 hpin).trans (runSteps_succ 0 hfall)), ⟨rfl, rfl, rfl⟩, rfl⟩

theorem expandField_wellFormed (f : FieldName) : (expandField f).wellFormed = true := by
  cases f <;> rfl

/-- A field pseudo-instruction is SCALE or SPOW with its operand bytes inside a frame of 61 bytes (R59). -/
theorem expandField_cases (f : FieldName) :
    (∃ off sc, expandField f = .scale off sc ∧ off.toNat + 4 ≤ 61) ∨
    ∃ off soff sc, expandField f = .spow off soff sc ∧ off.toNat + 4 ≤ 61 ∧ soff.toNat < 61 := by
  cases f
  case p1 => exact .inr ⟨_, _, _, rfl, by decide, by decide⟩
  case p2 => exact .inr ⟨_, _, _, rfl, by decide, by decide⟩
  all_goals exact .inl ⟨_, _, rfl, by decide⟩

/-- On a whole frame every field command writes the result registers, without a fault (R72, R110). -/
theorem exec_expandField {s : State} {frame : List Byte} (f : FieldName) (hs : Holds s frame)
    (hlen : frame.length = 61) : ∃ r n sc, exec (expandField f) s = .next (setScaled r n sc s) := by
  rcases expandField_cases f with ⟨off, sc, heq, hoff⟩ | ⟨off, soff, sc, heq, hoff, hsoff⟩
  · obtain ⟨r, hr, -⟩ := readField_of_holds hs (off := off) (by omega)
    exact ⟨_, _, _, heq ▸ exec_scale_some hr sc⟩
  · obtain ⟨r, hr, -⟩ := readField_of_holds hs (off := off) (by omega)
    obtain ⟨f, hf, -⟩ := readSign_of_holds hs (soff := soff) (by omega)
    exact ⟨_, _, _, heq ▸ exec_spow_some hr hf sc⟩

/-- The field commands on a whole frame run to their end, and leave CNT, MATCH and BYPASS alone. -/
theorem runSteps_fields (names : List FieldName) {s : State} {frame : List Byte} {rest : List HostMove}
    (h : Presents s (names.map fun f => encode (expandField f)) rest) (hs : Holds s frame) (hlen : frame.length = 61) :
    ∃ t, runSteps names.length s = .next t ∧ Presents t [] rest ∧ t.cnt = s.cnt ∧ t.matchFlag = s.matchFlag ∧
      t.bypass = s.bypass := by
  induction names generalizing s with
  | nil => exact ⟨s, rfl, h, rfl, rfl, rfl⟩
  | cons f names ih =>
    have ⟨_, hfault, _⟩ := h
    have hstep := step_of_presents h (expandField_wellFormed f)
    obtain ⟨r, n, sc, hexec⟩ := exec_expandField (s := setHost (_ ++ rest) s) f hs hlen
    obtain ⟨t, hrun, hend⟩ := ih (presents_after_exec h hexec hfault) hs
    exact ⟨t, (runSteps_succ _ (hstep.trans hexec)).trans hrun, hend⟩

/-- CHECK on a block that holds a buffer of at least two bytes leaves MATCH as the source's check, or 1 under bypass. -/
theorem step_check_of_holdsBuffer {s : State} {bytes : List Byte} {words : List Word} {rest : List HostMove}
    (hs : HoldsBuffer s bytes) (hlong : 2 ≤ bytes.length) (h : Presents s (encode .check :: words) rest) :
    ∃ t, step s = .next t ∧ Presents t words rest ∧ Holds t bytes ∧ t.bypass = s.bypass ∧
      t.matchFlag = (s.bypass || computeOrCheck bytes) := by
  have ⟨⟨hcnt, hram⟩, _⟩ := hs
  have ⟨_, hfault, _⟩ := h
  have hcount : 2 ≤ s.cnt.toNat := hcnt ▸ le_min hlong (by decide)
  have hexec := exec_check_result (s := setHost (words.map .command ++ rest) s) fun _ => hcount
  refine ⟨_, (step_of_presents h rfl).trans hexec, presents_after_exec h hexec hfault, ⟨hcnt, hram⟩, rfl, ?_⟩
  exact congrArg (s.bypass || ·) (trailerMatches_of_holdsBuffer hs hlong)

/-- The commands of a frame read after its pushes: none on a wrong size, CHECK, the fields on a good check (R110). -/
def commandsAfterPushes (bypass : Bool) (bytes : List Byte) : List Instr :=
  if bytes.length = Config.frameLen then
    .check :: if bypass || computeOrCheck bytes then decodeSequence.map expandField else []
  else []

theorem map_encode_frameCommands (bypass : Bool) (bytes : List Byte) :
    (frameCommands bypass bytes).map encode =
      encode .crcinit :: ((bytes.map fun b => encode (.push b)) ++ (commandsAfterPushes bypass bytes).map encode) := by
  simp [frameCommands, commandsAfterPushes, expandPushbytes]

/-- What the host reads after a frame read: CNT counts the bytes, and on a whole frame MATCH is the check (R66, R67). -/
abbrev FrameRead (bypass : Bool) (bytes : List Byte) (t : State) : Prop :=
  t.bypass = bypass ∧ t.cnt.toNat = min bytes.length Config.cntMax ∧
  (bytes.length = Config.frameLen → t.matchFlag = (bypass || computeOrCheck bytes))

theorem runSteps_commandsAfterPushes {s : State} {bytes : List Byte} {rest : List HostMove} (hs : HoldsBuffer s bytes)
    (h : Presents s ((commandsAfterPushes s.bypass bytes).map encode) rest) :
    ∃ t, runSteps (commandsAfterPushes s.bypass bytes).length s = .next t ∧ Presents t [] rest ∧
      FrameRead s.bypass bytes t := by
  have ⟨⟨hcnt, _⟩, _⟩ := hs
  unfold commandsAfterPushes at h ⊢
  by_cases hlen : bytes.length = Config.frameLen
  · rw [if_pos hlen] at h ⊢
    obtain ⟨u, hcheck, hpresents, hholds, hbypass, hmatch⟩ := step_check_of_holdsBuffer hs (hlen ▸ by decide) h
    have ⟨hcount, _⟩ := hholds
    cases hgood : s.bypass || computeOrCheck bytes
    · simp only [hgood] at hpresents ⊢
      exact ⟨u, runSteps_succ 0 hcheck, hpresents, hbypass, hcount, fun _ => hmatch⟩
    · simp only [hgood] at hpresents ⊢
      obtain ⟨t, hrun, hend, hcnt', hmatch', hbypass'⟩ := runSteps_fields decodeSequence hpresents hholds hlen
      exact ⟨t, (runSteps_succ _ hcheck).trans hrun, hend, hbypass'.trans hbypass, hcnt' ▸ hcount,
        fun _ => hmatch'.trans hmatch⟩
  · rw [if_neg hlen] at h ⊢
    exact ⟨s, rfl, h, rfl, hcnt, fun hlen' => absurd hlen' hlen⟩

/-- One frame read of a buffer of any length, in any ready state (R95, R110). -/
theorem runSteps_frame {s : State} {bytes : List Byte} {rest : List HostMove}
    (h : Presents s ((frameCommands s.bypass bytes).map encode) rest) :
    ∃ t, runSteps (frameCommands s.bypass bytes).length s = .next t ∧ Presents t [] rest ∧
      FrameRead s.bypass bytes t := by
  rw [map_encode_frameCommands] at h
  have ⟨_, hfault, _⟩ := h
  obtain ⟨u, hpushes, hpresents, hbuffer, hbypass⟩ :=
    runSteps_pushes bytes (presents_after_exec h rfl hfault) (holdsBuffer_startBuffer _)
  have hb : u.bypass = s.bypass := hbypass
  rw [← hb] at hpresents
  obtain ⟨t, hrun, hend, hread⟩ := runSteps_commandsAfterPushes hbuffer hpresents
  rw [hb] at hrun hread
  refine ⟨t, ?_, hend, hread⟩
  have hlength : (frameCommands s.bypass bytes).length =
      bytes.length + (commandsAfterPushes s.bypass bytes).length + 1 := by
    simpa using congrArg List.length (map_encode_frameCommands s.bypass bytes)
  rw [hlength, runSteps_succ _ (step_of_presents h rfl), ← hrun]
  exact runSteps_add _ _ hpushes

/-- The host's verdict after a frame read, the size check first (R95, R110). -/
theorem verdict_of_frameRead {bypass : Bool} {frame : List Byte} {t : State} (h : FrameRead bypass frame t) :
    verdict t =
      if frame.length ≠ 61 then .readSizeMismatch 61 (min frame.length 0xFFFF)
      else if bypass = true ∨ computeOrCheck frame = true then .good
      else .badChecksum := by
  obtain ⟨-, hcnt, hmatch⟩ := h
  have hsize : t.cnt.toNat ≠ Config.frameLen ↔ frame.length ≠ 61 := by
    rw [hcnt]
    simp only [Config.cntMax, Config.frameLen]
    omega
  unfold verdict
  by_cases hlen : frame.length = 61
  · rw [if_neg (hsize.not.mpr (not_not.mpr hlen)), if_neg (not_not.mpr hlen), hmatch hlen]
    simp only [Bool.or_eq_true]
  · rw [if_pos (hsize.mpr hlen), if_pos hlen, hcnt]

end Sys2Proof.Machine
end

section
/-! A session of resets and frame reads, with reads of registers among its moves (60_exceptions.md R95, R96). -/

namespace Sys2Proof.Machine

theorem presents_of_frame_moves {s : State} {bytes : List Byte} {rest : List HostMove} (hrst : s.rst = false)
    (hfault : s.fault = false)
    (hhost : s.host = (frameCommands s.bypass bytes).map (fun i => .command (encode i)) ++ rest) :
    Presents s ((frameCommands s.bypass bytes).map encode) rest :=
  ⟨hrst, hfault, by rw [hhost, List.map_map]; rfl⟩

/-- A session without reads, act by act: each leaves a ready block for the next. -/
theorem runSteps_session (acts : List SessionAct) {s : State} {rest : List HostMove} (hrst : s.rst = false)
    (hfault : s.fault = false) (hhost : s.host = sessionMoves s.bypass acts ++ rest) :
    ∃ t, runSteps (sessionMoves s.bypass acts).length s = .next t ∧ Presents t [] rest := by
  induction acts generalizing s with
  | nil => exact ⟨s, rfl, hrst, hfault, hhost⟩
  | cons act acts ih =>
    cases act with
    | configure level =>
      obtain ⟨u, hreset, ⟨hrst', hfault', hhost'⟩, rfl⟩ := runSteps_configure hhost
      obtain ⟨t, hrun, hend⟩ := ih hrst' hfault' hhost'
      refine ⟨t, ?_, hend⟩
      rw [← hrun, ← runSteps_add 3 _ hreset, Nat.add_comm]
      rfl
    | frame bytes =>
      rw [sessionMoves, List.append_assoc] at hhost
      obtain ⟨u, hframe, ⟨hrst', hfault', hhost'⟩, hbypass, -⟩ :=
        runSteps_frame (presents_of_frame_moves hrst hfault hhost)
      rw [← hbypass] at hhost'
      obtain ⟨t, hrun, hend⟩ := ih hrst' hfault' hhost'
      refine ⟨t, ?_, hend⟩
      rw [sessionMoves, List.length_append, List.length_map, runSteps_add _ _ hframe, ← hbypass, hrun]

/-- Settles O52: the session without reads is `runSteps_session`, one frame read is `runSteps_frame`, and the reads
among the moves change the RDSEL pin alone. -/
theorem dutifulSessionNeverFaults : Obligations.DutifulSessionNeverFaults := by
  refine ⟨fun s acts made rest h => ?_, fun s frame made rest h => ?_⟩
  · have ⟨hrst, hfault, _⟩ := h
    obtain ⟨t, hrun, hrst', hfault', hhost'⟩ :=
      runSteps_session acts (s := setHost (sessionMoves s.bypass acts ++ rest) s) hrst hfault rfl
    obtain ⟨sel, hmade⟩ := runSteps_of_presentsWithReads h hrun
    exact ⟨_, hmade, hhost', hfault', hrst'⟩
  · rw [sessionMoves, sessionMoves, List.append_nil] at h
    have ⟨hrst, hfault, _⟩ := h
    obtain ⟨t, hrun, ⟨-, hfault', hhost'⟩, hread⟩ :=
      runSteps_frame (presents_of_frame_moves
        (s := setHost ((frameCommands s.bypass frame).map (fun i => .command (encode i)) ++ rest) s) hrst hfault rfl)
    obtain ⟨sel, hmade⟩ := runSteps_of_presentsWithReads h (by rwa [List.length_map])
    have ⟨_, hcnt, _⟩ := hread
    exact ⟨_, hmade, hhost', hfault', hcnt, verdict_of_frameRead hread⟩

end Sys2Proof.Machine
end

section
/-! Reset (70_reset_and_hazards.md R105, R108): what the fall of RST writes, and that nothing else does its work. -/

namespace Sys2Proof.Machine

/-- Settles O54: driving RST otherwise than to its fall is the move of the pin. -/
theorem onlyTheFallOfRstWrites : Obligations.OnlyTheFallOfRstWrites :=
  fun _ _ _ hh hlevel => step_rst_pin hh hlevel

/-- Settles O16: the update of CRCINIT writes the reset values of the CRC unit. -/
theorem resetIsAFreshBuffer : Obligations.ResetIsAFreshBuffer := by
  intro cfg s t h
  rw [exec_crcinit_eq h]
  exact ⟨rfl, rfl, rfl, rfl, rfl⟩

/-- Settles O14: the fall is the reset event; of any other step `step_bypass` gives BYPASS and the quiescence of a faulted
block its record. -/
theorem resetAtTheFallOfRst : Obligations.ResetAtTheFallOfRst := by
  refine ⟨fun s hr => ⟨by simp [ready, hr], fun rest hh => ?_⟩, fun s t hother h => ?_⟩
  · exact ⟨_, step_fall hh hr, SameButStale.refl _, fun a => memRead_above (Nat.zero_le a), rfl, rfl⟩
  · have hno : ¬(s.rst = true ∧ ∃ rest, s.host = .rst false :: rest) := by
      rintro ⟨hr, rest, hh⟩
      rcases hother with hlow | hnot
      · simp [hr] at hlow
      · exact hnot rest hh
    refine ⟨?_, fun hf => ((quiescentUntilReset s t hf h).2).resolve_right hno⟩
    rw [step_bypass h, if_neg fun ⟨hr, hhead⟩ => hno ⟨hr, List.head?_eq_some_iff.mp hhead⟩]

end Sys2Proof.Machine
end

section
/-! The hazards the block does not have (70_reset_and_hazards.md R114, R117): a scaler command waits for no CHECK, and sees
the byte pushed just before it. -/

namespace Sys2Proof.Machine

/-- Settles O47: the operand reads of a scaler command look at CNT and the RAM only, so it makes the same update, and no
such update names a register of the CRC unit. -/
theorem decodingIsNotGatedOnTheCrc : Obligations.DecodingIsNotGatedOnTheCrc := by
  intro i s t c d0 d1 v m hi h
  obtain ⟨upd, hupd, hnext, hnext'⟩ := exec_scaler_congr hi (s := s)
    (s' := { s with crc := c, dl0 := d0, dl1 := d1, mvalid := v, matchFlag := m }) rfl fun _ _ => rfl
  rw [hnext] at h
  cases h
  rw [hnext']
  rcases hupd with rfl | ⟨off, r, -, rfl⟩ | ⟨r, n, sc, rfl⟩ <;> rfl

theorem exec_push_ramFilled {b : Byte} {s t : State} (hs : RamFilled s) (h : exec (.push b) s = .next t) :
    RamFilled t := by
  rw [exec_push_eq h]
  exact ramFilled_absorb hs b

/-- While the RAM has room PUSH makes one more byte readable (R36, R65). -/
theorem exec_push_readableLen {b : Byte} {s t : State} (h : exec (.push b) s = .next t) (hroom : s.cnt.toNat < 64) :
    readableLen t = s.cnt.toNat + 1 := by
  rw [exec_push_eq h, readableLen, clearResult_cnt, absorb_cnt, cntAfterPush_toNat, Config.ramSize]
  omega

theorem exec_push_ram_get_cnt {b : Byte} {s t : State} (h : exec (.push b) s = .next t) (hroom : s.cnt.toNat < 64) :
    t.ram.get s.cnt.toNat = some b := by
  rw [exec_push_eq h]
  exact ramAfterPush_get_cnt b hroom

/-- The last byte of a field is its least significant one (R38). -/
theorem assembleBe_low (b0 b1 b2 b3 : Byte) : (assembleBe b0 b1 b2 b3).extractLsb' 0 8 = b3 := by
  refine BitVec.eq_of_toNat_eq ?_
  rw [BitVec.extractLsb'_toNat, assembleBe_toNat, Nat.shiftRight_zero]
  omega

/-- A field that is read has the RAM's byte at its last index as its low byte. -/
theorem readField_low {s : State} {off : BitVec 6} {r : Word} {b : Byte} (hr : readField s off = some r)
    (hb : s.ram.get (off.toNat + 3) = some b) : r.extractLsb' 0 8 = b := by
  obtain ⟨-, b0, b1, b2, b3, -, -, -, h3, rfl⟩ := readField_eq_some.mp hr
  rw [assembleBe_low]
  exact Option.some.inj (h3.symm.trans hb)

/-- The field whose last byte was just pushed is read, with that byte as its low one (R117). -/
theorem readField_of_pushed {b : Byte} {off : BitVec 6} {s t : State} (hs : RamFilled s)
    (h : exec (.push b) s = .next t) (hcnt : s.cnt.toNat = off.toNat + 3) (hoff : off.toNat ≤ 60) :
    ∃ r, readField t off = some r ∧ r.extractLsb' 0 8 = b := by
  have hlen := exec_push_readableLen h (by omega)
  obtain ⟨r, hr⟩ := readField_of_ramFilled (exec_push_ramFilled hs h) (off := off) (by omega)
  exact ⟨r, hr, readField_low hr (hcnt ▸ exec_push_ram_get_cnt h (by omega))⟩

/-- The sign byte just pushed is read (R117). -/
theorem readSign_of_pushed {b : Byte} {soff : BitVec 6} {s t : State} (h : exec (.push b) s = .next t)
    (hcnt : s.cnt.toNat = soff.toNat) : readSign t soff = some b := by
  have hroom : s.cnt.toNat < 64 := hcnt ▸ soff.isLt
  have hlen := exec_push_readableLen h hroom
  exact readSign_eq_some.mpr ⟨by omega, hcnt ▸ exec_push_ram_get_cnt h hroom⟩

/-- Settles O46: the operand reads succeed on the byte just pushed, and the commands answer what they read. -/
theorem pushedByteIsVisibleAtOnce : Obligations.PushedByteIsVisibleAtOnce := by
  intro s t b off hs h
  have hfilled := exec_push_ramFilled hs h
  refine ⟨fun hcnt hoff => ?_, fun soff sc hcnt hbelow => ?_⟩
  · obtain ⟨r, hr, hlow⟩ := readField_of_pushed hs h hcnt hoff
    refine ⟨⟨_, exec_decu32_some hr, rfl, hlow⟩,
      fun sc => ⟨_, exec_scale_some hr sc, rfl, hlow, magnitude_toInt r⟩, fun soff sc hsoff => ?_⟩
    have hlen := exec_push_readableLen h (by omega)
    obtain ⟨f, hf⟩ := readSign_of_ramFilled hfilled (soff := soff) (by omega)
    exact ⟨_, exec_spow_some hr hf sc, rfl, hlow⟩
  · have hlen := exec_push_readableLen h (hcnt ▸ soff.isLt)
    obtain ⟨r, hr⟩ := readField_of_ramFilled hfilled (off := off) (by omega)
    refine ⟨_, exec_spow_some hr (readSign_of_pushed h hcnt) sc, rfl, ?_⟩
    simp only [← BitVec.toNat_inj (x := b)]
    exact signedMantissa_toInt_ite r b

end Sys2Proof.Machine
end
